-- ==== Sys2Proof/Word.lean ====
section
/-! DEFINITION. The word types: a byte of the wire, a 32-bit command word, and a pixel of three 8-bit channels (00 R10). -/

namespace Sys2Proof

/-- Eight bits: one colour channel or one byte on the wire (00 R10). -/
abbrev Byte := BitVec 8

/-- A 32-bit command word (30 R52) or STATUS word (10 R28). -/
abbrev Word := BitVec 32

/-- One 8-bit RGB triple, "RGB triples (8 bits/channel)" (00 R10, R16). -/
structure Pixel where
  red : Byte
  green : Byte
  blue : Byte
deriving DecidableEq, Repr, Inhabited

end Sys2Proof
end

