-- ==== Sys2Proof/Config.lean ====
section
/-! DEFINITION. The three static parameters of the block (10 R27) and the values the spec leaves free. -/

namespace Sys2Proof

/-- What the block does when the sink reports a failed send (00 R9): the two legal values. -/
inductive TxErrPolicy where
  | ignore
  | stop
deriving DecidableEq, Repr, Inhabited

/-- The sink's answer to one `Emit` (00 R12, 41 R88). -/
inductive SinkResult where
  | ok
  | err
deriving DecidableEq, Repr, Inhabited

/-- The configuration (10 R27): plain data that no operation writes (70 R121).
The fields also hold values outside the legal range, so that the refusal of 60 R100 can be stated. -/
structure Config where
  /-- `N`, the side of the square canvas (00 R7). -/
  canvasSide : Nat
  /-- `COORD_W`, the width in bits of the coordinate ports (00 R8). -/
  coordWidth : Nat
  /-- `TX_ERR_POLICY` (00 R9); `none` stands for any value other than `IGNORE` and `STOP` (60 R100). -/
  txErrPolicy : Option TxErrPolicy
deriving DecidableEq, Repr

/-- `TX_ERR_POLICY` of the machine after reset. Free: the spec leaves it OPEN (00 R9, D5), so nothing
about its value can be proved (log 3). -/
opaque Config.openTxErrPolicy : TxErrPolicy

/-- The sink's answer to the emission that makes draw number `k`. Free: "a free draw" (41 R88, I7; log 4). -/
opaque Config.sinkAnswer (k : Nat) : SinkResult

/-- DESIGN CHOICE (log 12). What the receiver's location holds after it is sent a word whose address lies
outside the `N × N` canvas, at draw number `k`. Free: "Must not assume a receiver ignores, rejects or
executes such words" (91, Receiver behaviour on a command word). -/
opaque Config.outsidePanel (k : Nat) : Option Word

/-- The configuration after reset: the spec's default values of `N` (00 R7) and `COORD_W` (00 R8), and
the open policy (log 2, log 3). -/
def Config.atReset : Config :=
  { canvasSide := 64, coordWidth := 8, txErrPolicy := some Config.openTxErrPolicy }

end Sys2Proof
end

