-- ==== Sys2Proof/Syntax.lean ====
section
/-! DEFINITION. What stands at the machine's inputs (30 R57, R58) and the decoded instructions, one
constructor for each row of the opcode table. -/

namespace Sys2Proof

/-- One offered operation: the descriptor `HOD[2:0]` (30 R57) and the operand ports sampled with it
(30 R58). A port that carries `COORD_W` or `N` lanes is held as a number or a list; the decoder refuses a
value the port cannot carry (log 9). -/
structure Offer where
  hod : BitVec 3
  rowIn : Nat
  colIn : Nat
  rIn : Byte
  gIn : Byte
  bIn : Byte
  /-- `pix_in[c]`, `c = 0 .. N-1`, 24 bits each. -/
  pixIn : List (BitVec 24)
  /-- Whether the host withdraws this offer if the block stalls it: "The host may withdraw a stalled
  operation and offer another" (60 R105; log 6). -/
  dropOnStall : Bool
deriving DecidableEq, Repr

/-- What the environment presents to one step. -/
inductive Input where
  /-- The host offers an operation to the block (00 R15). -/
  | op (o : Offer)
  /-- The four wire bytes of one command word reach the receiver (20 R36, R37; log 11). -/
  | wire (bytes : List Byte)
deriving DecidableEq, Repr

/-- The instructions: the five rows of the operation map (30 R59) and the command word (30 R52). -/
inductive Instr where
  /-- RESET (70 R114); `op` is the ignored selector `HOD[1:0]` (30 R57). -/
  | reset (op : BitVec 2)
  /-- ENCODE (40 R74). -/
  | encode (row col : Nat) (red green blue : Byte)
  /-- BUILD_ROW (41 R82); one 24-bit lane for each column. -/
  | buildRow (row : Nat) (lanes : List (BitVec 24))
  /-- PUSH (41 R84). -/
  | push (red green blue : Byte)
  /-- The reserved descriptor (30 R60, 60 R101). -/
  | reserved
  /-- CW, the command word (30 R52): `ADDR_ROW`, `ADDR_COL`, and the blue, red and green six-bit values
  of `SLOT_R`, `SLOT_G` and `SLOT_B`. -/
  | cw (row col blueQ redQ greenQ : BitVec 6)
deriving DecidableEq, Repr

end Sys2Proof
end

