-- ==== Sys2Proof/WellFormed.lean ====
section
/-! DEFINITION. When an instruction is one that the ports of a configuration can carry (30 R58), and the
names under which the decoder refuses what they cannot. -/

namespace Sys2Proof

/-- Why the decoder refuses an input. Raised by `decode` alone; safe: the machine stops where no
operation of the block was offered. -/
inductive DecodeError where
  /-- A coordinate needs more than the `COORD_W` bits of its port (30 R58; log 9). -/
  | coordinateTooWide
  /-- `pix_in` does not have exactly `N` lanes (30 R58; "an operand count other than the one shown is an
  assembly error", 30 R66; log 9). -/
  | laneCount
  /-- Other than four bytes stand for a command word (30 R51, R55). DESIGN CHOICE: the spec states
  nothing of a short datagram (91; log 14). -/
  | wireLength
  /-- A command word with bit 31 or 30 set (30 R63); "a receiver model must `refuse` it" (I5; log 14). -/
  | commandWordHighBits
deriving DecidableEq, Repr

/-- Whether a coordinate fits a port of `COORD_W` bits (30 R58). -/
def coordinateFits (cfg : Config) (v : Nat) : Bool := decide (v < 2 ^ cfg.coordWidth)

/-- The first thing in an instruction that the ports cannot carry, if there is one (30 R58). -/
def Instr.defect (cfg : Config) : Instr → Option DecodeError
  | .reset _ => none
  | .encode row col _ _ _ =>
    if coordinateFits cfg row && coordinateFits cfg col then none else some .coordinateTooWide
  | .buildRow row lanes =>
    if coordinateFits cfg row then
      if lanes.length = cfg.canvasSide then none else some .laneCount
    else some .coordinateTooWide
  | .push _ _ _ => none
  | .reserved => none
  | .cw _ _ _ _ _ => none

/-- An instruction that the ports of configuration `cfg` can carry. -/
abbrev Instr.WellFormed (cfg : Config) (i : Instr) : Prop := i.defect cfg = none

end Sys2Proof
end

