-- ==== Sys2Proof/Decode.lean ====
section
/-! DEFINITION. The wire's byte order (20 R37), the decoder of a host descriptor (30 R59) and of a command
word (30 R52, R65), and, after it, the encoder. -/

namespace Sys2Proof

/-- `be32`: the four bytes of a word in network byte order, most significant first (20 R37).
PRESUMED by the spec (K1): the source names the order and does not spell the bytes out (log 18). -/
def be32 (w : Word) : List Byte :=
  [w.extractLsb' 24 8, w.extractLsb' 16 8, w.extractLsb' 8 8, w.extractLsb' 0 8]

/-- The word whose four wire bytes are given; `none` for any other number of bytes (20 R37). -/
def ofBe32 : List Byte → Option Word
  | [b0, b1, b2, b3] => some (b0 ++ b1 ++ b2 ++ b3)
  | _ => none

/-- The command word of five 6-bit fields: their 30-bit concatenation, zero extended (30 R52, 40 R72). -/
def composeFields (row col blueQ redQ greenQ : BitVec 6) : Word :=
  (row ++ col ++ blueQ ++ redQ ++ greenQ).setWidth 32

/-- Reads a descriptor by the operation map (30 R59): total on the 8 values of `HOD`, `RST` first (60 R108).
A port the operation does not name is not read (30 R58). -/
def decodeOffer (o : Offer) : Instr :=
  if o.hod.extractLsb' 2 1 = 1#1 then .reset (o.hod.extractLsb' 0 2)
  else if o.hod.extractLsb' 0 2 = 0b00#2 then .encode o.rowIn o.colIn o.rIn o.gIn o.bIn
  else if o.hod.extractLsb' 0 2 = 0b01#2 then .buildRow o.rowIn o.pixIn
  else if o.hod.extractLsb' 0 2 = 0b10#2 then .push o.rIn o.gIn o.bIn
  else .reserved

/-- Reads a command word back into its fields (30 R65). -/
def decodeWord (w : Word) : Except DecodeError Instr :=
  if w.extractLsb' 30 2 = 0#2 then
    .ok (.cw (w.extractLsb' 24 6) (w.extractLsb' 18 6) (w.extractLsb' 12 6)
      (w.extractLsb' 6 6) (w.extractLsb' 0 6))
  else .error .commandWordHighBits

/-- The decoder: total, and refusing by name what no port can carry. -/
def decode (cfg : Config) : Input → Except DecodeError Instr
  | .op o =>
    match (decodeOffer o).defect cfg with
    | none => .ok (decodeOffer o)
    | some e => .error e
  | .wire bytes =>
    match ofBe32 bytes with
    | some w => decodeWord w
    | none => .error .wireLength

/-- The `k` bytes of `w`, most significant first: how a table word of `8 × k` bits is laid out (20 R37). -/
def wireBytes : Nat → Nat → List Byte
  | 0, _ => []
  | k + 1, w => BitVec.ofNat 8 (w / 256 ^ k) :: wireBytes k w

/-- An offer of descriptor `hod` whose operand ports are all zero. -/
def zeroPorts (cfg : Config) (hod : BitVec 3) : Offer :=
  { hod := hod, rowIn := 0, colIn := 0, rIn := 0, gIn := 0, bIn := 0,
    pixIn := List.replicate cfg.canvasSide 0, dropOnStall := false }

/-- The input that a word of the opcode table stands for: up to one byte is a descriptor with zero
operand ports, anything longer is the wire bytes of a command word. A byte above 7 is no descriptor
(`HOD` has three bits, 30 R57) and is laid out as the single wire byte it is, which the decoder refuses
(log 10). -/
def Input.ofTableWord (cfg : Config) (nbits w : Nat) : Input :=
  if nbits ≤ 8 ∧ w < 8 then .op (zeroPorts cfg (BitVec.ofNat 3 w))
  else .wire (wireBytes ((nbits + 7) / 8) w)

/-- What the decoder reads from an opcode-table word, in the configuration after reset. -/
def decodeTableWord (nbits w : Nat) : Option Instr :=
  (decode Config.atReset (Input.ofTableWord Config.atReset nbits w)).toOption

/-- An offer whose ports, but for those set afterwards, are all idle. -/
def idlePorts (hod : BitVec 3) : Offer :=
  { hod := hod, rowIn := 0, colIn := 0, rIn := 0, gIn := 0, bIn := 0, pixIn := [], dropOnStall := false }

/-- The encoder: the input that carries an instruction (30 R57, R58, R59; 30 R52 for CW). A port the
operation does not name is left idle. -/
def encode : Instr → Input
  | .reset op => .op (idlePorts (1#1 ++ op))
  | .encode row col red green blue =>
    .op { idlePorts 0b000#3 with rowIn := row, colIn := col, rIn := red, gIn := green, bIn := blue }
  | .buildRow row lanes => .op { idlePorts 0b001#3 with rowIn := row, pixIn := lanes }
  | .push red green blue => .op { idlePorts 0b010#3 with rIn := red, gIn := green, bIn := blue }
  | .reserved => .op (idlePorts 0b011#3)
  | .cw row col blueQ redQ greenQ => .wire (be32 (composeFields row col blueQ redQ greenQ))

/-- One row of the operation map: a descriptor belongs to it when its bits under `mask` equal `bits`. -/
structure HodRow where
  mnemonic : String
  mask : BitVec 3
  bits : BitVec 3
deriving DecidableEq, Repr

/-- Whether a descriptor belongs to a row of the operation map. -/
def HodRow.covers (r : HodRow) (hod : BitVec 3) : Bool := hod &&& r.mask == r.bits

/-- The operation map (30 R59), as the opcode table writes it. -/
def hodTable : List HodRow :=
  [ ⟨"RESET", 0b100#3, 0b100#3⟩,
    ⟨"ENCODE", 0b111#3, 0b000#3⟩,
    ⟨"BUILD_ROW", 0b111#3, 0b001#3⟩,
    ⟨"PUSH", 0b111#3, 0b010#3⟩,
    ⟨"(reserved)", 0b111#3, 0b011#3⟩ ]

/-- The mnemonic of an instruction, as the opcode table spells it. -/
def Instr.mnemonic : Instr → String
  | .reset _ => "RESET"
  | .encode _ _ _ _ _ => "ENCODE"
  | .buildRow _ _ => "BUILD_ROW"
  | .push _ _ _ => "PUSH"
  | .reserved => "(reserved)"
  | .cw _ _ _ _ _ => "CW"

end Sys2Proof
end

