-- ==== Sys2Proof/Machine/State.lean ====
section
/-! DEFINITION. The state of the machine as plain data, its faults and refusals, and the state after reset. -/

namespace Sys2Proof.Machine

/-- Why a read has no value. Raised by the read accessors of Machine/Ops.lean alone (no operation of the
block reads such a place); safe: a read answers nothing rather than an invented value. -/
inductive Fault where
  /-- A position of `buf` at or above `col_cnt` (10 R24, U2). Raised by `readBuf`. Safe. -/
  | bufPositionEmpty
  /-- A response port the last operation did not write (30 R61, U3). Raised by `readWordOut`,
  `readBytesOut` and `readPayloadOut`. Safe. -/
  | portHoldsNoValue
  /-- A location of the receiver in which no word has been latched (20 R36; log 13). Raised by
  `readPixel`. Safe. -/
  | pixelNeverLatched
deriving DecidableEq, Repr

/-- Why a step is refused by the model. -/
inductive Refusal where
  /-- An instruction without a meaning; raised by no arm of `exec`. Safe. -/
  | notModelled (mnemonic : String)
  /-- `CONFIG_RANGE` (60 R100): an illegal configuration defines no block. Raised by `step` before any
  operation. Safe. -/
  | configRange
  /-- The input stands for no instruction; the decoder's reason. Raised by `step`. Safe. -/
  | undecodable (reason : DecodeError)
deriving DecidableEq, Repr

/-- The events of the code table (60 R102). -/
inductive EventCode where
  | configRange
  | reservedOp
  | transmitError
deriving DecidableEq, Repr

/-- The `outcome` port (30 R61, 60 R98). -/
inductive OutcomePort where
  | accepted
  | refused (code : EventCode)
  | stalled
deriving DecidableEq, Repr

/-- One `Emit` (41 R88): the payload, its two sideband values, and the sink's answer. -/
structure Emission where
  payload : List Byte
  row : BitVec 6
  last : Bool
  answer : SinkResult
deriving DecidableEq, Repr

/-- The receiver's pixel locations (20 R35): address and word pairs, addresses strictly rising. An
unlisted address holds no value (log 13). -/
abbrev Memory := List (Nat × Word)

/-- The machine: the block's four architectural elements (10 R18), its response ports (30 R61), the
run-level mark of 60 R99, and what the model holds of the parameters (10 R27) and the other agents
(00 R15, 20 R36). -/
structure State where
  /-- `row_cnt`, the row being accumulated (10 R21). -/
  rowCnt : BitVec 6
  /-- `col_cnt`, the column of the next word (10 R22). -/
  colCnt : BitVec 6
  /-- `buf`, the words of the current row (10 R23); positions past its length hold no value (10 R24). -/
  buf : List Word
  /-- `halted` (10 R25). -/
  halted : Bool
  /-- The `outcome` port (30 R61). -/
  outcome : OutcomePort
  /-- The `word_out` port (30 R61); `none` where it holds no value. -/
  wordOut : Option Word
  /-- The `bytes_out` port (30 R61); `none` where it holds no value. -/
  bytesOut : Option (List Byte)
  /-- The `payload_out` port (30 R61); `none` where it holds no value. -/
  payloadOut : Option (List Byte)
  /-- The run-level mark of 60 R99; no state of the hardware. -/
  refused : Bool
  /-- Every emission so far, oldest first (41 R88, R89; log 17). -/
  sinkLog : List Emission
  /-- How many free values have been drawn (00 R12; log 4). -/
  draws : Nat
  /-- The receiver's framebuffer (20 R36; log 11). -/
  framebuffer : Memory
  /-- What the environment presents, the next input first (00 R15; log 5). -/
  inputs : List Input
  /-- The static parameters (10 R27; log 1). -/
  cfg : Config
deriving DecidableEq, Repr

/-- The machine right after reset: the four elements at the values of 10 R32, the ports as the RESET
operation leaves them (70 R114, 30 R61; log 16), the spec's default configuration (log 2, log 3), and
nothing yet offered, emitted or latched (log 4, 5, 13, 17, 22). -/
def State.reset : State :=
  { rowCnt := 0, colCnt := 0, buf := [], halted := false,
    outcome := .accepted, wordOut := none, bytesOut := none, payloadOut := none,
    refused := false, sinkLog := [], draws := 0, framebuffer := [], inputs := [],
    cfg := Config.atReset }

end Sys2Proof.Machine
end

