-- ==== Sys2Proof/Machine/Flags.lean ====
section
/-! DEFINITION. The numbers of the code table (60 R102) and the STATUS view (10 R28). The block has no
condition codes (10 R26); `halted` is its one flag. -/

namespace Sys2Proof.Machine

/-- The numeric codes (60 R102). -/
def EventCode.number : EventCode → Nat
  | .configRange => 1
  | .reservedOp => 2
  | .transmitError => 3

/-- STATUS: `COL` 5:0, `ROW` 11:6, `HALTED` 12, bits 31:13 hardwired 0 (10 R28). A view: nothing is stored
and reading it changes nothing. -/
def statusWord (s : State) : Word :=
  (BitVec.ofBool s.halted ++ s.rowCnt ++ s.colCnt).setWidth 32

end Sys2Proof.Machine
end

