-- ==== Sys2Proof/Machine/Operands.lean ====
section
/-! DEFINITION. Operand assembly (30 R62): coordinate masking, the pixel address, channel quantization,
and the lanes of `pix_in`. -/

namespace Sys2Proof.Machine

/-- Coordinate masking: the low six bits, `v & 0x3F = v mod 64` (40 R68). -/
def low6 (v : Nat) : BitVec 6 := BitVec.ofNat 6 v

/-- The pixel address `(row_low6 << 6) | col_low6 = {row[5:0], col[5:0]}` (40 R69). -/
def pixelAddress (row col : BitVec 6) : BitVec 12 := row ++ col

/-- Channel quantization, `q6(v) = (v & 0xFC) >> 2 = v[7:2]`, no rounding (40 R70). -/
def q6 (v : Byte) : BitVec 6 := v.extractLsb' 2 6

/-- The pixel of one lane of `pix_in`: red in `[23:16]`, green in `[15:8]`, blue in `[7:0]` (30 R58). -/
def lanePixel (lane : BitVec 24) : Pixel :=
  { red := lane.extractLsb' 16 8, green := lane.extractLsb' 8 8, blue := lane.extractLsb' 0 8 }

/-- The lane of `pix_in` that carries a pixel (30 R58). -/
def pixelLane (p : Pixel) : BitVec 24 := p.red ++ p.green ++ p.blue

end Sys2Proof.Machine
end

