-- ==== Sys2Proof/Machine/Ops.lean ====
section
/-! DEFINITION. The operations the meanings share: the `encode` function (40 R72), row payloads (41 R81),
the response ports (30 R61), the framer's moves (41 R84), TransmitError (60 R103) and the way out of it
(60 R110), the receiver's memory, the read accessors, and fetching the next input. -/

namespace Sys2Proof.Machine

/-! ### Configuration -/

/-- Whether a configuration defines a block: `1 <= N <= 64`, `COORD_W >= 6`, and a policy that is `IGNORE`
or `STOP` (60 R100). -/
def configLegal (cfg : Config) : Bool :=
  decide (1 ≤ cfg.canvasSide) && decide (cfg.canvasSide ≤ 64) && decide (6 ≤ cfg.coordWidth) &&
    cfg.txErrPolicy.isSome

/-! ### The encode function and payloads -/

/-- `encode(row, col, red, green, blue)` (40 R67, R72), with the swizzle of 40 R71: slot R takes blue,
slot G takes red, slot B takes green. -/
def encodePixel (row col : Nat) (p : Pixel) : Word :=
  composeFields (low6 row) (low6 col) (q6 p.blue) (q6 p.red) (q6 p.green)

/-- The words of a row's pixels from column `col` on, in ascending column order (41 R81). -/
def rowWords (row : Nat) : Nat → List Pixel → List Word
  | _, [] => []
  | col, p :: ps => encodePixel row col p :: rowWords row (col + 1) ps

/-- The wire bytes of a sequence of words, each in network byte order (20 R40). -/
def serializeWords (ws : List Word) : List Byte := ws.flatMap be32

/-- The row payload (41 R81). -/
def rowPayload (row : Nat) (px : List Pixel) : List Byte := serializeWords (rowWords row 0 px)

/-! ### Response ports -/

/-- Writes the response ports: `outcome`, and `word_out` with its `bytes_out`, or `payload_out`, where the
operation writes them; a port it does not write holds no value afterwards (30 R61). -/
def State.respond (s : State) (o : OutcomePort) (word : Option Word) (payload : Option (List Byte)) : State :=
  { s with outcome := o, wordOut := word, bytesOut := word.map be32, payloadOut := payload }

/-- The response of a refused operation: `outcome` alone, and the run-level mark (60 R99). -/
def State.refuse (s : State) (code : EventCode) : State :=
  { s with outcome := .refused code, wordOut := none, bytesOut := none, payloadOut := none, refused := true }

/-! ### The framer -/

/-- The counter advance of a PUSH that leaves the row open (41 R84, R90). -/
def State.appendWord (s : State) (w : Word) : State :=
  { s with buf := s.buf ++ [w], colCnt := s.colCnt + 1 }

/-- `Emit` (41 R88): the sink takes the payload and its sideband in the same step and answers. -/
def State.emit (s : State) (payload : List Byte) (row : BitVec 6) (last : Bool) (answer : SinkResult) : State :=
  { s with
    sinkLog := s.sinkLog ++ [{ payload := payload, row := row, last := last, answer := answer }]
    draws := s.draws + 1 }

/-- The counters and the buffer after a row completes: `buf <- []`, `col_cnt <- 0`,
`row_cnt <- (r0 + 1) mod N` (41 R84, R90). -/
def State.finishRow (s : State) : State :=
  { s with
    buf := []
    colCnt := 0
    rowCnt := BitVec.ofNat 6 ((s.rowCnt.toNat + 1) % s.cfg.canvasSide) }

/-- Taking TransmitError (60 R103, R109), raised when the sink answered `ERR`: under `STOP` it sets `halted`,
under `IGNORE` nothing; it saves nothing, has no vector and jumps nowhere (60 R109), and records no cause and
no row (60 R104). The answer `OK` raises nothing. -/
def State.takeTransmitError (s : State) (answer : SinkResult) : State :=
  { s with halted := if s.cfg.txErrPolicy = some .stop ∧ answer = .err then true else s.halted }

/-- The way out of `halted`, and the start of a frame: the values of 10 R32 (70 R114, 60 R110). -/
def State.clearFramer (s : State) : State :=
  { s with rowCnt := 0, colCnt := 0, buf := [], halted := false }

/-- A PUSH that writes the last column (41 R84): the row's `N` words are emitted in one payload, with the
row and whether it is the last one as sideband, and the framer moves on; if the sink answers `ERR`,
TransmitError is raised together with these writes. -/
def completeRow (answer : SinkResult) (w : Word) (s : State) : State :=
  ((s.emit (serializeWords (s.buf ++ [w])) s.rowCnt
    (decide (s.rowCnt.toNat = s.cfg.canvasSide - 1)) answer).finishRow).takeTransmitError answer

/-- What an accepted PUSH does to the framer (41 R84), for the given answer of the sink. The word is
addressed at the framer's position before the PUSH's own writes (41 R85). -/
def pushPixel (answer : SinkResult) (p : Pixel) (s : State) : State :=
  if s.colCnt.toNat < s.cfg.canvasSide - 1 then
    s.appendWord (encodePixel s.rowCnt.toNat s.colCnt.toNat p)
  else completeRow answer (encodePixel s.rowCnt.toNat s.colCnt.toNat p) s

/-! ### The receiver's memory (20 R35, R36; log 11) -/

/-- The canonical form: addresses strictly rising from `lo` on and inside the 12-bit space (20 R35). -/
def Memory.wfFrom : Nat → Memory → Bool
  | _, [] => true
  | lo, (a, _) :: m => decide (lo ≤ a) && decide (a < 4096) && Memory.wfFrom (a + 1) m

/-- The canonical form of the receiver's memory. Every listed location holds a word, and an unlisted one
holds no value, so equal memories are equal lists. -/
def Memory.wf (m : Memory) : Bool := Memory.wfFrom 0 m

/-- What a location holds; an unlisted one holds no value (log 13). -/
def Memory.read : Memory → Nat → Option Word
  | [], _ => none
  | (b, w) :: m, a => if a = b then some w else Memory.read m a

/-- Puts a word in a location, or takes its value away, keeping the canonical form. -/
def Memory.put : Memory → Nat → Option Word → Memory
  | [], a, some w => [(a, w)]
  | [], _, none => []
  | (b, x) :: m, a, v =>
    if a = b then
      match v with
      | some w => (a, w) :: m
      | none => m
    else if a < b then
      match v with
      | some w => (a, w) :: (b, x) :: m
      | none => (b, x) :: m
    else (b, x) :: Memory.put m a v

/-- Whether a position lies on the `N × N` canvas (20 R44). -/
def onCanvas (cfg : Config) (row col : BitVec 6) : Bool :=
  decide (row.toNat < cfg.canvasSide) && decide (col.toNat < cfg.canvasSide)

/-- "latch each word into a framebuffer indexed by address" (20 R36; log 11). Outside the canvas what the
location then holds is the free value `Config.outsidePanel` (log 12). -/
def State.latchWord (s : State) (row col : BitVec 6) (w : Word) : State :=
  { s with
    framebuffer :=
      s.framebuffer.put (pixelAddress row col).toNat
        (if onCanvas s.cfg row col then some w else Config.outsidePanel s.draws)
    draws := if onCanvas s.cfg row col then s.draws else s.draws + 1 }

/-! ### Read accessors -/

/-- Reads position `c` of the row buffer; a position at or above `col_cnt` holds no value (10 R24, U2). -/
def readBuf (s : State) (c : Nat) : Except Fault Word :=
  match (s.buf.take s.colCnt.toNat)[c]? with
  | some w => .ok w
  | none => .error .bufPositionEmpty

/-- Reads `word_out` (30 R61, U3). -/
def readWordOut (s : State) : Except Fault Word :=
  match s.wordOut with
  | some w => .ok w
  | none => .error .portHoldsNoValue

/-- Reads `bytes_out` (30 R61, U3). -/
def readBytesOut (s : State) : Except Fault (List Byte) :=
  match s.bytesOut with
  | some b => .ok b
  | none => .error .portHoldsNoValue

/-- Reads `payload_out` (30 R61, U3). -/
def readPayloadOut (s : State) : Except Fault (List Byte) :=
  match s.payloadOut with
  | some b => .ok b
  | none => .error .portHoldsNoValue

/-- Reads one location of the receiver (20 R36; log 13). -/
def readPixel (s : State) (row col : BitVec 6) : Except Fault Word :=
  match s.framebuffer.read (pixelAddress row col).toNat with
  | some w => .ok w
  | none => .error .pixelNeverLatched

/-! ### The next input -/

/-- Whether an input stays at the head of the queue after its step: an offer that the block stalled and the
host does not withdraw "stays offered" (00 R12, 60 R105; log 6). -/
def staysOffered (x : Input) (s : State) : Bool :=
  match x with
  | .op o => decide (s.outcome = .stalled) && !o.dropOnStall
  | .wire _ => false

/-- Takes a served input off the queue, unless it stays offered. -/
def State.retire (s : State) (x : Input) : State :=
  { s with inputs := if staysOffered x s then s.inputs else s.inputs.tail }

end Sys2Proof.Machine
end

