-- ==== Sys2Proof/Machine/Control.lean ====
section
/-! DEFINITION. RESET (70 R114) and the reserved descriptor (60 R101). -/

namespace Sys2Proof.Machine

/-- RESET (70 R114), whatever the selector holds (70 R115): the framer starts a frame, a partial row is
discarded unseen (70 R116), and nothing is emitted. -/
def execReset (_op : BitVec 2) (s : State) : Host.Outcome State Fault Refusal :=
  .next (s.clearFramer.respond .accepted none none)

/-- The reserved descriptor (60 R101): refused with `RESERVED_OP` whatever `halted` is. No state of the block
changes; the machine goes on (log 7). -/
def execReserved (s : State) : Host.Outcome State Fault Refusal :=
  .next (s.refuse .reservedOp)

end Sys2Proof.Machine
end

