-- ==== Sys2Proof/Machine/PixelEncoder.lean ====
section
/-! DEFINITION. ENCODE (40 R74). -/

namespace Sys2Proof.Machine

/-- ENCODE (40 R74): the word of one pixel at explicit coordinates on `word_out`, its four wire bytes on
`bytes_out`. It reads and writes no framer state and is accepted while halted (40 R80). -/
def execEncode (row col : Nat) (red green blue : Byte) (s : State) : Host.Outcome State Fault Refusal :=
  .next (s.respond .accepted (some (encodePixel row col ⟨red, green, blue⟩)) none)

end Sys2Proof.Machine
end

