-- ==== Sys2Proof/Machine/Receiver.lean ====
section
/-! DEFINITION. CW: a command word that reaches the receiver (30 R52, 20 R36; log 11). -/

namespace Sys2Proof.Machine

/-- CW: "latch each word into a framebuffer indexed by address" (20 R36). An assumption about the receiver,
which the spec lets a model add; the block itself reads no command word (30 R63) and none of its state or
ports changes (log 11). -/
def execCw (row col blueQ redQ greenQ : BitVec 6) (s : State) : Host.Outcome State Fault Refusal :=
  .next (s.latchWord row col (composeFields row col blueQ redQ greenQ))

end Sys2Proof.Machine
end

