-- ==== Sys2Proof/Machine/RowFraming.lean ====
section
/-! DEFINITION. BUILD_ROW (41 R82) and PUSH (41 R84). -/

namespace Sys2Proof.Machine

/-- BUILD_ROW (41 R82): the row payload of `N` pixels on `payload_out`. It reads and writes no framer state,
emits nothing and is accepted while halted (41 R97). -/
def execBuildRow (row : Nat) (lanes : List (BitVec 24)) (s : State) : Host.Outcome State Fault Refusal :=
  .next (s.respond .accepted none (some (rowPayload row (lanes.map lanePixel))))

/-- PUSH (41 R84): stalled while halted, writing `outcome` alone (41 R96, 60 R105); otherwise accepted, with
the sink's answer drawn if the row completes (00 R12; log 4). -/
def execPush (red green blue : Byte) (s : State) : Host.Outcome State Fault Refusal :=
  if s.halted then .next (s.respond .stalled none none)
  else .next ((pushPixel (Config.sinkAnswer s.draws) ⟨red, green, blue⟩ s).respond .accepted none none)

end Sys2Proof.Machine
end

