-- ==== Sys2Proof/Machine/Dispatch.lean ====
section
/-! DEFINITION. One arm for each constructor of Instr, each one direct call of its meaning. -/

namespace Sys2Proof.Machine

def exec (i : Instr) (s : State) : Host.Outcome State Fault Refusal :=
  match i with
  | .reset op => Sys2Proof.Machine.execReset op s
  | .encode row col red green blue => Sys2Proof.Machine.execEncode row col red green blue s
  | .buildRow row lanes => Sys2Proof.Machine.execBuildRow row lanes s
  | .push red green blue => Sys2Proof.Machine.execPush red green blue s
  | .reserved => Sys2Proof.Machine.execReserved s
  | .cw row col blueQ redQ greenQ => Sys2Proof.Machine.execCw row col blueQ redQ greenQ s

end Sys2Proof.Machine
end

