-- ==== Sys2Proof/Machine/Step.lean ====
section
/-! DEFINITION. One step of the machine, and where an instruction stands to be the next one. -/

namespace Sys2Proof.Machine

/-- One step (00 R14): an illegal configuration defines no block and is refused before any operation
(60 R100); with nothing at the inputs the state is held (60 R113, 70 R125); otherwise the next input is
decoded and performed, and leaves the queue unless it stays offered. -/
def step (s : State) : Host.Outcome State Fault Refusal :=
  if configLegal s.cfg then
    match s.inputs with
    | [] => .next s
    | x :: _ =>
      match decode s.cfg x with
      | .error e => .refused (.undecodable e)
      | .ok i =>
        match exec i s with
        | .next t => .next (t.retire x)
        | .fault f => .fault f
        | .refused r => .refused r
  else .refused .configRange

/-- The state with an opcode-table word as its next input: what the host offers next, or (CW) what reaches
the receiver next (log 5). -/
def State.withFetchWord (s : State) (nbits w : Nat) : State :=
  { s with inputs := Input.ofTableWord s.cfg nbits w :: s.inputs }

end Sys2Proof.Machine
end

