-- ==== Sys2Proof/Machine/Assembler.lean ====
section
/-! DEFINITION. The textual notation for host operations (30 R66): one operation a line, numbers in decimal or
with a `0x` prefix, `;` starting a comment; and its pseudo-operations, expanded to real operations in order. -/

namespace Sys2Proof.Machine

/-- One line of the notation (30 R66); pixels stand as triples. -/
inductive AsmLine where
  | reset
  | encode (row col : Nat) (p : Pixel)
  | buildRow (row : Nat) (px : List Pixel)
  | push (p : Pixel)
  | pushRow (px : List Pixel)
  | pushFill (k : Nat) (p : Pixel)
deriving DecidableEq, Repr

/-- PUSH of one pixel. -/
def pushOf (p : Pixel) : Instr := .push p.red p.green p.blue

/-- The operations a line stands for. `none` is an assembly error: an operand count other than the one shown,
or (30 R58) a coordinate its port cannot carry (log 9). -/
def assemble (cfg : Config) : AsmLine → Option (List Instr)
  | .reset => some [.reset 0]
  | .encode row col p =>
    if coordinateFits cfg row && coordinateFits cfg col then
      some [.encode row col p.red p.green p.blue] else none
  | .buildRow row px =>
    if coordinateFits cfg row && decide (px.length = cfg.canvasSide) then
      some [.buildRow row (px.map pixelLane)] else none
  | .push p => some [pushOf p]
  | .pushRow px => if px.length = cfg.canvasSide then some (px.map pushOf) else none
  | .pushFill k p => some (List.replicate k (pushOf p))

/-! ### The text of a line -/

/-- A token of a line. -/
inductive AsmToken where
  | word (cs : List Char)
  | num (n : Nat)
  | comma
  | lpar
  | rpar
deriving DecidableEq, Repr

/-- The value of a digit in the given base. -/
def digitValue (base : Nat) (c : Char) : Option Nat :=
  let v :=
    if '0'.toNat ≤ c.toNat ∧ c.toNat ≤ '9'.toNat then c.toNat - '0'.toNat
    else if 'a'.toNat ≤ c.toNat ∧ c.toNat ≤ 'f'.toNat then c.toNat - 'a'.toNat + 10
    else if 'A'.toNat ≤ c.toNat ∧ c.toNat ≤ 'F'.toNat then c.toNat - 'A'.toNat + 10
    else base
  if v < base then some v else none

/-- The number that a sequence of digits continues from `acc`. -/
def readDigits (base : Nat) : Nat → List Char → Option Nat
  | acc, [] => some acc
  | acc, c :: cs => (digitValue base c).bind fun d => readDigits base (acc * base + d) cs

/-- A run of letters, digits and underscores as a token: a number if it begins with a digit. -/
def wordToken : List Char → Option AsmToken
  | '0' :: 'x' :: c :: cs => (readDigits 16 0 (c :: cs)).map .num
  | c :: cs => if (digitValue 10 c).isSome then (readDigits 10 0 (c :: cs)).map .num else some (.word (c :: cs))
  | [] => none

/-- The tokens of a line up to its comment; `cur` is the run being read, last character first. `none` where a run
that begins with a digit is no number. -/
def lexLine (cur : List Char) : List Char → Option (List AsmToken)
  | [] => if cur.isEmpty then some [] else (wordToken cur.reverse).map fun t => [t]
  | c :: cs =>
    let closed : Option (List AsmToken) :=
      if cur.isEmpty then some [] else (wordToken cur.reverse).map fun t => [t]
    if c = ';' then closed
    else if c = ' ' ∨ c = '\t' then closed.bind fun a => (lexLine [] cs).map (a ++ ·)
    else if c = ',' then closed.bind fun a => (lexLine [] cs).map (a ++ .comma :: ·)
    else if c = '(' then closed.bind fun a => (lexLine [] cs).map (a ++ .lpar :: ·)
    else if c = ')' then closed.bind fun a => (lexLine [] cs).map (a ++ .rpar :: ·)
    else lexLine (c :: cur) cs

/-- Three numbers as a pixel, where each fits its 8-bit port (30 R58). -/
def channelTriple (r g b : Nat) : Option Pixel :=
  if r < 256 ∧ g < 256 ∧ b < 256 then some ⟨BitVec.ofNat 8 r, BitVec.ofNat 8 g, BitVec.ofNat 8 b⟩ else none

/-- One or more parenthesised triples, separated by commas. -/
def parseTriples : List AsmToken → Option (List Pixel)
  | [.lpar, .num r, .comma, .num g, .comma, .num b, .rpar] => (channelTriple r g b).map fun p => [p]
  | .lpar :: .num r :: .comma :: .num g :: .comma :: .num b :: .rpar :: .comma :: rest =>
    (channelTriple r g b).bind fun p => (parseTriples rest).map (p :: ·)
  | _ => none

/-- The operation that the tokens of a line show (30 R66): none where there are no tokens. The outer `none` is an
assembly error. -/
def parseTokens : List AsmToken → Option (List AsmLine)
  | [] => some []
  | [.word ['R', 'E', 'S', 'E', 'T']] => some [.reset]
  | [.word ['E', 'N', 'C', 'O', 'D', 'E'], .num row, .comma, .num col, .comma, .num r, .comma, .num g, .comma,
      .num b] => (channelTriple r g b).map fun p => [.encode row col p]
  | .word ['B', 'U', 'I', 'L', 'D', '_', 'R', 'O', 'W'] :: .num row :: .comma :: triples =>
    (parseTriples triples).map fun px => [.buildRow row px]
  | [.word ['P', 'U', 'S', 'H'], .num r, .comma, .num g, .comma, .num b] =>
    (channelTriple r g b).map fun p => [.push p]
  | .word ['P', 'U', 'S', 'H', '_', 'R', 'O', 'W'] :: triples =>
    (parseTriples triples).map fun px => [.pushRow px]
  | [.word ['P', 'U', 'S', 'H', '_', 'F', 'I', 'L', 'L'], .num k, .comma, .num r, .comma, .num g, .comma,
      .num b] => (channelTriple r g b).map fun p => [.pushFill k p]
  | _ => none

/-- The operation of a line (30 R66): none on a line that holds only blanks and a comment. The outer `none` is an
assembly error. -/
def parseLine (line : List Char) : Option (List AsmLine) := (lexLine [] line).bind parseTokens

/-! ### A line as 30 R66 shows it -/

/-- The operands `r, g, b`. -/
def channelTokens (p : Pixel) : List AsmToken :=
  [.num p.red.toNat, .comma, .num p.green.toNat, .comma, .num p.blue.toNat]

/-- The operands `(r0, g0, b0), (r1, g1, b1), ...`. -/
def tripleTokens : List Pixel → List AsmToken
  | [] => []
  | [p] => .lpar :: channelTokens p ++ [.rpar]
  | p :: ps => .lpar :: channelTokens p ++ .rpar :: .comma :: tripleTokens ps

/-- The tokens of a line as 30 R66 shows it: the mnemonic and its operands, separated by commas. -/
def lineTokens : AsmLine → List AsmToken
  | .reset => [.word ['R', 'E', 'S', 'E', 'T']]
  | .encode row col p =>
    .word ['E', 'N', 'C', 'O', 'D', 'E'] :: .num row :: .comma :: .num col :: .comma :: channelTokens p
  | .buildRow row px =>
    .word ['B', 'U', 'I', 'L', 'D', '_', 'R', 'O', 'W'] :: .num row :: .comma :: tripleTokens px
  | .push p => .word ['P', 'U', 'S', 'H'] :: channelTokens p
  | .pushRow px => .word ['P', 'U', 'S', 'H', '_', 'R', 'O', 'W'] :: tripleTokens px
  | .pushFill k p => .word ['P', 'U', 'S', 'H', '_', 'F', 'I', 'L', 'L'] :: .num k :: .comma :: channelTokens p

/-- The operations of a sequence of parsed lines, in order. -/
def assembleLines (cfg : Config) : List AsmLine → Option (List Instr)
  | [] => some []
  | l :: ls => (assemble cfg l).bind fun is => (assembleLines cfg ls).map (is ++ ·)

/-- The operations of a text given line by line (30 R66); `none` if a line is an assembly error. -/
def assembleText (cfg : Config) : List (List Char) → Option (List Instr)
  | [] => some []
  | line :: rest =>
    (parseLine line).bind fun ls =>
      (assembleLines cfg ls).bind fun is => (assembleText cfg rest).map (is ++ ·)

end Sys2Proof.Machine
end

