-- ==== Sys2Proof/Safety.lean ====
section
/-! DEFINITION. The terms claims are stated in: the invariant of the machine (10 R29 and what the model
adds to it), operations performed one after another, and a datagram's words as the receiver meets them. -/

namespace Sys2Proof.Machine

/-- An emission the block may make (41 R88, R92): a complete row of `N` pixels of a row of the canvas, with
`last` telling whether it is the last one. -/
structure Emission.WellFormed (cfg : Config) (e : Emission) : Prop where
  row : e.row.toNat < cfg.canvasSide
  last : e.last = decide (e.row.toNat = cfg.canvasSide - 1)
  payload : ∃ px : List Pixel, px.length = cfg.canvasSide ∧ e.payload = rowPayload e.row.toNat px

/-- What holds between any two operations: 10 R29, the length of `buf`, `halted` staying 0 under `IGNORE`
(10 R25), complete emissions only (41 R92), the response ports and the refused mark in step (30 R61,
60 R99), and the canonical form of the receiver's memory. -/
structure State.Inv (s : State) : Prop where
  config : configLegal s.cfg = true
  row : s.rowCnt.toNat < s.cfg.canvasSide
  col : s.colCnt.toNat < s.cfg.canvasSide
  bufLength : s.buf.length = s.colCnt.toNat
  bufWords : ∃ px : List Pixel, s.buf = rowWords s.rowCnt.toNat 0 px
  ignoreNeverHalts : s.cfg.txErrPolicy = some .ignore → s.halted = false
  emissions : ∀ e ∈ s.sinkLog, e.WellFormed s.cfg
  ports : s.bytesOut = s.wordOut.map be32
  refusedMarked : ∀ code, s.outcome = .refused code → s.refused = true
  framebuffer : s.framebuffer.wf = true

/-- Operations performed one after another, each completely before the next (20 R46), stopping at the first
that answers no next state. -/
def execAll : List Instr → State → Host.Outcome State Fault Refusal
  | [], s => .next s
  | i :: is, s =>
    match exec i s with
    | .next t => execAll is t
    | .fault f => .fault f
    | .refused r => .refused r

/-- The words of a datagram as the receiver meets them, one input for each four wire bytes (20 R40).
DESIGN CHOICE, where the spec states nothing of a short datagram (91; log 14): the words that are whole are met
one by one however many they are, and bytes left over after them are not dropped but stand as one more input,
which the decoder refuses by name. -/
def datagramInputs : List Byte → List Input
  | b0 :: b1 :: b2 :: b3 :: rest => .wire [b0, b1, b2, b3] :: datagramInputs rest
  | [] => []
  | leftOver => [.wire leftOver]

/-- Whether a run that ended in `s` recorded no refusal: the premise 60 R99 asks of a claim about a run. -/
def State.NoRefusalRecorded (s : State) : Prop := s.refused = false

end Sys2Proof.Machine
end

