-- ==== Sys2Proof/Certificates/Slice0/Obligations.lean ====
section
/-! DEFINITION. The statements for the provers, each formalising rules of spec/ (OBLIGATIONS.json says which).
Where a clause rests on a choice of the model, the docstring names the log entry. -/

open Sys2Proof Sys2Proof.Machine

/-! ### The encode function and the bytes on the wire -/

/-- 40 R68: masking keeps the low six bits, which is the value mod 64. -/
def Obligations.CoordinateMaskIsModSixtyFour : Prop :=
  ∀ v : Nat, (low6 v).toNat = v &&& 0x3F ∧ v &&& 0x3F = v % 64

/-- 30 R52, 40 R77: every field of the word of a pixel, by its bit range; slot R holds blue, slot G red,
slot B green. -/
def Obligations.CommandWordFieldLayout : Prop :=
  ∀ (row col : Nat) (p : Pixel),
    (encodePixel row col p).extractLsb' 30 2 = 0#2 ∧
    (encodePixel row col p).extractLsb' 24 6 = BitVec.ofNat 6 row ∧
    (encodePixel row col p).extractLsb' 18 6 = BitVec.ofNat 6 col ∧
    (encodePixel row col p).extractLsb' 12 6 = p.blue.extractLsb' 2 6 ∧
    (encodePixel row col p).extractLsb' 6 6 = p.red.extractLsb' 2 6 ∧
    (encodePixel row col p).extractLsb' 0 6 = p.green.extractLsb' 2 6

/-- 40 R69, R76, 30 R53: bits 29:18 are the pixel address, as bits and as a number. -/
def Obligations.PixelAddressRoundTrip : Prop :=
  ∀ (row col : Nat) (p : Pixel),
    (encodePixel row col p).extractLsb' 18 12 = pixelAddress (low6 row) (low6 col) ∧
    (encodePixel row col p).extractLsb' 18 12 = BitVec.ofNat 6 row ++ BitVec.ofNat 6 col ∧
    ((encodePixel row col p).extractLsb' 18 12).toNat = ((row &&& 0x3F) <<< 6) ||| (col &&& 0x3F)

/-- 40 R72: the concatenation, the shifted fields joined by or, and their sum are one word. -/
def Obligations.CompositionFormsAgree : Prop :=
  ∀ (row col : Nat) (p : Pixel),
    encodePixel row col p =
      (BitVec.ofNat 6 row ++ BitVec.ofNat 6 col ++ p.blue.extractLsb' 2 6 ++ p.red.extractLsb' 2 6 ++
        p.green.extractLsb' 2 6).setWidth 32 ∧
    encodePixel row col p =
      ((BitVec.ofNat 6 row).setWidth 32 <<< 24) ||| ((BitVec.ofNat 6 col).setWidth 32 <<< 18) |||
        ((p.blue.extractLsb' 2 6).setWidth 32 <<< 12) ||| ((p.red.extractLsb' 2 6).setWidth 32 <<< 6) |||
        (p.green.extractLsb' 2 6).setWidth 32 ∧
    (encodePixel row col p).toNat =
      row % 64 * 2 ^ 24 + col % 64 * 2 ^ 18 + p.blue.toNat / 4 * 2 ^ 12 + p.red.toNat / 4 * 2 ^ 6 +
        p.green.toNat / 4

/-- 40 R78: two inputs share a word exactly when they agree on the low six coordinate bits and the top six
channel bits. -/
def Obligations.EqualWordsIffEqualUsedBits : Prop :=
  ∀ (row col row' col' : Nat) (p p' : Pixel),
    encodePixel row col p = encodePixel row' col' p' ↔
      row % 64 = row' % 64 ∧ col % 64 = col' % 64 ∧ p.red.toNat / 4 = p'.red.toNat / 4 ∧
        p.green.toNat / 4 = p'.green.toNat / 4 ∧ p.blue.toNat / 4 = p'.blue.toNat / 4

/-- 40 R79: every word of `encode` has bits 31:30 clear, and every such word is the word of some operands. -/
def Obligations.ProducedWordsAreThoseWithHighBitsClear : Prop :=
  (∀ (row col : Nat) (p : Pixel), (encodePixel row col p).extractLsb' 30 2 = 0#2) ∧
  ∀ w : Word, w.extractLsb' 30 2 = 0#2 →
    ∃ (row col : Nat) (p : Pixel), row < 64 ∧ col < 64 ∧ encodePixel row col p = w

/-- 30 R55: the four wire bytes of a pixel's word in terms of the encoder's inputs. Which byte stands first is the
spec's general knowledge K1, on which it says R55 depends (PRESUMED, log 18). -/
def Obligations.WireBytesOfPixel : Prop :=
  ∀ (row col : Nat) (p : Pixel),
    be32 (encodePixel row col p) =
      [ 0#2 ++ BitVec.ofNat 6 row,
        BitVec.ofNat 6 col ++ p.blue.extractLsb' 6 2,
        p.blue.extractLsb' 2 4 ++ p.red.extractLsb' 4 4,
        p.red.extractLsb' 2 2 ++ p.green.extractLsb' 2 6 ]

/-- 20 R37, R39: byte `k` on the wire is bits `31-8k : 24-8k`; four bytes are read as a word exactly when
they are its serialization. The order is the spec's general knowledge K1 (log 18). -/
def Obligations.NetworkByteOrderIsABijection : Prop :=
  (∀ (w : Word) (k : Nat), k < 4 → (be32 w)[k]? = some (w.extractLsb' (24 - 8 * k) 8)) ∧
  (∀ w : Word, (be32 w).length = 4) ∧
  ∀ (bytes : List Byte) (w : Word), ofBe32 bytes = some w ↔ bytes = be32 w

/-- 20 R40, 41 R81, R83: the four bytes at offset `4c` of a row payload are those of column `c`'s word, and the
payload has four bytes for each pixel. -/
def Obligations.RowPayloadLayout : Prop :=
  ∀ (row : Nat) (px : List Pixel),
    (rowPayload row px).length = 4 * px.length ∧
    ∀ (c : Nat) (p : Pixel), px[c]? = some p →
      ((rowPayload row px).drop (4 * c)).take 4 = be32 (encodePixel row c p)

/-- 20 R45: distinct positions of a legal canvas have distinct addresses. -/
def Obligations.CanvasPositionsHaveDistinctAddresses : Prop :=
  ∀ (cfg : Config) (r c r' c' : Nat), configLegal cfg = true →
    r < cfg.canvasSide → c < cfg.canvasSide → r' < cfg.canvasSide → c' < cfg.canvasSide →
    pixelAddress (low6 r) (low6 c) = pixelAddress (low6 r') (low6 c') → r = r' ∧ c = c'

/-! ### The operations: what each decodes from and answers, with everything else unchanged -/

/-- 40 R74: ENCODE. A descriptor `0b000` whose coordinates its ports carry decodes to it; it answers the word
and its bytes and changes nothing else; the port it does not write holds no value (30 R61). The corner cases stand
after it; the order of the wire bytes spelled out there is the spec's general knowledge K1 (PRESUMED, log 18). -/
def Obligations.EncodeOperation : Prop :=
  (∀ (o : Offer) (s : State), o.hod = 0b000#3 → o.rowIn < 2 ^ s.cfg.coordWidth →
    o.colIn < 2 ^ s.cfg.coordWidth →
    decode s.cfg (.op o) = .ok (.encode o.rowIn o.colIn o.rIn o.gIn o.bIn) ∧
    exec (.encode o.rowIn o.colIn o.rIn o.gIn o.bIn) s = .next
      { s with
        outcome := .accepted
        wordOut := some (encodePixel o.rowIn o.colIn ⟨o.rIn, o.gIn, o.bIn⟩)
        bytesOut := some (be32 (encodePixel o.rowIn o.colIn ⟨o.rIn, o.gIn, o.bIn⟩))
        payloadOut := none }) ∧
  (∀ (row col : Nat) (p : Pixel), encodePixel row col p = encodePixel (row % 64) (col % 64) p) ∧
  (∀ v : Byte, (v.toNat ≤ 3 → q6 v = 0) ∧ (252 ≤ v.toNat → q6 v = 63)) ∧
  encodePixel 0 0 ⟨0, 0, 0⟩ = 0x00000000 ∧ encodePixel 255 255 ⟨255, 255, 255⟩ = 0x3FFFFFFF ∧
  encodePixel 5 9 ⟨0x12, 0x34, 0x56⟩ = 0x0525510D ∧ be32 0x0525510D = [0x05, 0x25, 0x51, 0x0D]

/-- 41 R82: BUILD_ROW. A descriptor `0b001` with `N` lanes decodes to it; it answers the row payload of those
pixels, `4 × N` bytes, and changes nothing else; the ports it does not write hold no value (30 R61). The order of the
wire bytes spelled out in the example is the spec's general knowledge K1 (PRESUMED, log 18). -/
def Obligations.BuildRowOperation : Prop :=
  (∀ (o : Offer) (s : State), o.hod = 0b001#3 → o.rowIn < 2 ^ s.cfg.coordWidth →
    o.pixIn.length = s.cfg.canvasSide →
    decode s.cfg (.op o) = .ok (.buildRow o.rowIn o.pixIn) ∧
    exec (.buildRow o.rowIn o.pixIn) s = .next
      { s with
        outcome := .accepted
        wordOut := none
        bytesOut := none
        payloadOut := some (rowPayload o.rowIn (o.pixIn.map fun lane =>
          ⟨lane.extractLsb' 16 8, lane.extractLsb' 8 8, lane.extractLsb' 0 8⟩)) } ∧
    (rowPayload o.rowIn (o.pixIn.map lanePixel)).length = 4 * s.cfg.canvasSide) ∧
  (∀ (row : Nat) (px : List Pixel), rowPayload row px = rowPayload (row % 64) px) ∧
  rowPayload 1 [⟨255, 0, 0⟩, ⟨0, 0, 255⟩] = [0x01, 0x00, 0x0F, 0xC0, 0x01, 0x07, 0xF0, 0x00]

/-- 41 R84, R85: PUSH, in its three cases, with everything it does not write unchanged. The model's choices: the
sink's answer is the free value of draw `s.draws` (log 4); a PUSH offered while halted answers a next state with
`STALLED` (log 6), and the ports it does not write hold no value (log 15). The hypothesis is 10 R22: `col_cnt`
never holds `N`. -/
def Obligations.PushOperation : Prop :=
  ∀ (o : Offer) (s : State), o.hod = 0b010#3 → s.colCnt.toNat < s.cfg.canvasSide →
    decode s.cfg (.op o) = .ok (.push o.rIn o.gIn o.bIn) ∧
    exec (.push o.rIn o.gIn o.bIn) s = .next
      (if s.halted = true then
        { s with outcome := .stalled, wordOut := none, bytesOut := none, payloadOut := none }
      else if s.colCnt.toNat < s.cfg.canvasSide - 1 then
        { s with
          buf := s.buf ++ [encodePixel s.rowCnt.toNat s.colCnt.toNat ⟨o.rIn, o.gIn, o.bIn⟩]
          colCnt := s.colCnt + 1
          outcome := .accepted, wordOut := none, bytesOut := none, payloadOut := none }
      else
        { s with
          sinkLog := s.sinkLog ++
            [{ payload := serializeWords
                (s.buf ++ [encodePixel s.rowCnt.toNat s.colCnt.toNat ⟨o.rIn, o.gIn, o.bIn⟩])
               row := s.rowCnt
               last := decide (s.rowCnt.toNat = s.cfg.canvasSide - 1)
               answer := Config.sinkAnswer s.draws }]
          draws := s.draws + 1
          buf := []
          colCnt := 0
          rowCnt := BitVec.ofNat 6 ((s.rowCnt.toNat + 1) % s.cfg.canvasSide)
          halted := decide (s.cfg.txErrPolicy = some .stop ∧ Config.sinkAnswer s.draws = .err)
          outcome := .accepted, wordOut := none, bytesOut := none, payloadOut := none })

/-- 70 R114, R115, 10 R32: RESET. Every descriptor with `RST = 1` decodes to it; it answers the values of R32,
emits nothing and changes nothing else, and the ports it does not write hold no value (30 R61); in the post-reset
state, whose response ports are the model's reading (log 16), it changes nothing; STATUS then reads 0. -/
def Obligations.ResetOperation : Prop :=
  (∀ (o : Offer) (s : State), o.hod.extractLsb' 2 1 = 1#1 →
    decode s.cfg (.op o) = .ok (.reset (o.hod.extractLsb' 0 2)) ∧
    ∀ op : BitVec 2, exec (.reset op) s = .next
      { s with
        rowCnt := 0, colCnt := 0, buf := [], halted := false
        outcome := .accepted, wordOut := none, bytesOut := none, payloadOut := none }) ∧
  (∀ op : BitVec 2, exec (.reset op) State.reset = .next State.reset) ∧
  ∀ (op : BitVec 2) (s t : State), exec (.reset op) s = .next t → statusWord t = 0x00000000

/-- 60 R101, 30 R60: the reserved descriptor is refused with code 2 whatever `halted` is: `outcome` and the
model's mark (60 R99) are written and nothing else changes. That the machine goes on with a next state (log 7)
and that the other response ports then hold no value (log 15) are the model's reading. -/
def Obligations.ReservedDescriptorRefused : Prop :=
  ∀ (o : Offer) (s : State), o.hod = 0b011#3 →
    decode s.cfg (.op o) = .ok .reserved ∧
    EventCode.reservedOp.number = 2 ∧
    exec .reserved s = .next
      { s with
        outcome := .refused .reservedOp, wordOut := none, bytesOut := none, payloadOut := none
        refused := true }

/-- 20 R36 as an assumption about the receiver (log 11): a command word whose position lies on the canvas is
latched at its address; every other location, and all of the block, is unchanged. -/
def Obligations.CommandWordLatchedOnCanvas : Prop :=
  ∀ (row col blueQ redQ greenQ : BitVec 6) (s : State), s.framebuffer.wf = true →
    row.toNat < s.cfg.canvasSide → col.toNat < s.cfg.canvasSide →
    ∃ t, exec (.cw row col blueQ redQ greenQ) s = .next t ∧
      t = { s with framebuffer := t.framebuffer } ∧
      readPixel t row col = .ok (composeFields row col blueQ redQ greenQ) ∧
      ∀ r c : BitVec 6, (r, c) ≠ (row, col) → readPixel t r c = readPixel s r c

/-- The model's choice of log 12: a command word whose position lies outside the canvas leaves its own location
at a free value and everything else unchanged, but for the count of draws. -/
def Obligations.CommandWordOutsideCanvas : Prop :=
  ∀ (row col blueQ redQ greenQ : BitVec 6) (s : State), s.framebuffer.wf = true →
    s.cfg.canvasSide ≤ row.toNat ∨ s.cfg.canvasSide ≤ col.toNat →
    ∃ t, exec (.cw row col blueQ redQ greenQ) s = .next t ∧
      t = { s with framebuffer := t.framebuffer, draws := s.draws + 1 } ∧
      t.framebuffer.read (pixelAddress row col).toNat = Config.outsidePanel s.draws ∧
      ∀ r c : BitVec 6, (r, c) ≠ (row, col) → readPixel t r c = readPixel s r c

/-! ### STATUS, configuration, decoding and the step -/

/-- 10 R28, R32: the fields of STATUS, its value after reset, and that nothing but the two counters and `halted`
is shown. -/
def Obligations.StatusWordLayout : Prop :=
  (∀ s : State,
    (statusWord s).extractLsb' 0 6 = s.colCnt ∧ (statusWord s).extractLsb' 6 6 = s.rowCnt ∧
    (statusWord s).extractLsb' 12 1 = (if s.halted = true then 1#1 else 0#1) ∧
    (statusWord s).extractLsb' 13 19 = 0#19) ∧
  statusWord State.reset = 0x00000000 ∧
  ∀ s s' : State, statusWord s = statusWord s' ↔
    s.colCnt = s'.colCnt ∧ s.rowCnt = s'.rowCnt ∧ s.halted = s'.halted

/-- 60 R100: an illegal configuration is refused before any operation with code 1, and these are the illegal
ones; under a legal one no step is refused so. -/
def Obligations.IllegalConfigurationRefused : Prop :=
  EventCode.configRange.number = 1 ∧
  ∀ s : State, step s = .refused .configRange ↔
    s.cfg.canvasSide < 1 ∨ 64 < s.cfg.canvasSide ∨ s.cfg.coordWidth < 6 ∨
      (s.cfg.txErrPolicy ≠ some .ignore ∧ s.cfg.txErrPolicy ≠ some .stop)

/-- 30 R59, R57: the operation map on all eight descriptors, and each belongs to exactly one row of the table. -/
def Obligations.DescriptorMapIsTotal : Prop :=
  (∀ o : Offer,
    (o.hod = 0b000#3 → decodeOffer o = .encode o.rowIn o.colIn o.rIn o.gIn o.bIn) ∧
    (o.hod = 0b001#3 → decodeOffer o = .buildRow o.rowIn o.pixIn) ∧
    (o.hod = 0b010#3 → decodeOffer o = .push o.rIn o.gIn o.bIn) ∧
    (o.hod = 0b011#3 → decodeOffer o = .reserved) ∧
    (o.hod = 0b100#3 → decodeOffer o = .reset 0) ∧ (o.hod = 0b101#3 → decodeOffer o = .reset 1) ∧
    (o.hod = 0b110#3 → decodeOffer o = .reset 2) ∧ (o.hod = 0b111#3 → decodeOffer o = .reset 3)) ∧
  ∀ (hod : BitVec 3) (r : HodRow) (o : Offer), r ∈ hodTable → o.hod = hod →
    (r.covers hod = true ↔ (decodeOffer o).mnemonic = r.mnemonic)

/-- Decoding what the encoder wrote gives the instruction back, every operand at every value its port carries. -/
def Obligations.DecodeOfEncodeIsIdentity : Prop :=
  ∀ (cfg : Config) (i : Instr), i.WellFormed cfg → decode cfg (encode i) = .ok i

/-- What decodes is well formed, and is what its encoding decodes to: the same wire bytes, or a descriptor with
the same three bits. It rests on what the decoder refuses: wire bytes other than the four of a word (30 R51; log 14)
and a word with bit 31 or 30 set (30 R63, I5; log 14), and values that no port can carry (log 9). -/
def Obligations.EncodeOfDecodeIsCanonical : Prop :=
  ∀ (cfg : Config) (x : Input) (i : Instr), decode cfg x = .ok i →
    i.WellFormed cfg ∧
    (∀ bytes, x = .wire bytes → encode i = x) ∧
    ∀ o, x = .op o → ∃ o', encode i = .op o' ∧ o'.hod = o.hod ∧ decode cfg (.op o') = decode cfg (.op o)

/-- 30 R58: "a port an operation does not name is ignored by it". -/
def Obligations.UnnamedPortsIgnored : Prop :=
  ∀ (cfg : Config) (o o' : Offer), o.hod = o'.hod →
    (o.hod = 0b000#3 → o.rowIn = o'.rowIn ∧ o.colIn = o'.colIn) →
    (o.hod = 0b001#3 → o.rowIn = o'.rowIn ∧ o.pixIn = o'.pixIn) →
    (o.hod = 0b000#3 ∨ o.hod = 0b010#3 → o.rIn = o'.rIn ∧ o.gIn = o'.gIn ∧ o.bIn = o'.bIn) →
    decode cfg (.op o) = decode cfg (.op o')

/-- A few words written out from the encodings of 30 R59 and R52 (sanity). That an 8-bit table word is a descriptor
whose operand ports are zero is the model's choice (log 10); that the last word is refused is its reading (log 14). -/
def Obligations.SampleTableWordsDecode : Prop :=
  decodeTableWord 8 0b100 = some (.reset 0) ∧ decodeTableWord 8 0b111 = some (.reset 3) ∧
  decodeTableWord 8 0b000 = some (.encode 0 0 0 0 0) ∧ decodeTableWord 8 0b010 = some (.push 0 0 0) ∧
  decodeTableWord 8 0b011 = some .reserved ∧
  decodeTableWord 32 0b00000101001001010101000100001101 =
    some (.cw 0b000101 0b001001 0b010101 0b000100 0b001101) ∧
  decodeTableWord 32 0b01000000000000000000000000000000 = none

/-- 30 R65: the wire bytes of a pixel's word read back as its coordinates mod 64 and its quantized channels. -/
def Obligations.CommandWordInverseView : Prop :=
  ∀ (cfg : Config) (row col : Nat) (p : Pixel),
    decode cfg (.wire (be32 (encodePixel row col p))) =
      .ok (.cw (BitVec.ofNat 6 row) (BitVec.ofNat 6 col) (p.blue.extractLsb' 2 6)
        (p.red.extractLsb' 2 6) (p.green.extractLsb' 2 6))

/-- I5, 30 R63 (log 14): a word with bit 31 or 30 set, or other than four bytes, is no command word, and the
step that meets it is refused. -/
def Obligations.BadCommandWordRefused : Prop :=
  ∀ (s : State) (bytes : List Byte) (rest : List Input), configLegal s.cfg = true →
    s.inputs = .wire bytes :: rest →
    (bytes.length ≠ 4 → step s = .refused (.undecodable .wireLength)) ∧
    ∀ w : Word, bytes = be32 w → w.extractLsb' 30 2 ≠ 0#2 →
      step s = .refused (.undecodable .commandWordHighBits)

/-- Under a legal configuration, a step whose next input decodes performs exactly that instruction (00 R14), and
the input leaves the queue; an offer that was stalled and is not withdrawn stays at its head (60 R105; log 6). That
inputs stand in one queue is the model's choice (log 5). -/
def Obligations.StepRunsTheDecodedInstruction : Prop :=
  ∀ (s t : State) (x : Input) (rest : List Input) (i : Instr), configLegal s.cfg = true →
    s.inputs = x :: rest → decode s.cfg x = .ok i → exec i s = .next t →
    t.inputs = x :: rest ∧
    (staysOffered x t = true ↔ ∃ o, x = .op o ∧ t.outcome = .stalled ∧ o.dropOnStall = false) ∧
    (staysOffered x t = true → step s = .next t) ∧
    (staysOffered x t = false → step s = .next { t with inputs := rest })

/-- 30 R58 (log 9): an offer whose coordinate does not fit its port of `COORD_W` bits, or that has other than `N`
lanes, is no operation, and the step that meets it is refused by name. -/
def Obligations.UnportableOperandsRefused : Prop :=
  ∀ (s : State) (o : Offer) (rest : List Input), configLegal s.cfg = true → s.inputs = .op o :: rest →
    (o.hod = 0b000#3 → 2 ^ s.cfg.coordWidth ≤ o.rowIn ∨ 2 ^ s.cfg.coordWidth ≤ o.colIn →
      step s = .refused (.undecodable .coordinateTooWide)) ∧
    (o.hod = 0b001#3 → 2 ^ s.cfg.coordWidth ≤ o.rowIn →
      step s = .refused (.undecodable .coordinateTooWide)) ∧
    (o.hod = 0b001#3 → o.rowIn < 2 ^ s.cfg.coordWidth → o.pixIn.length ≠ s.cfg.canvasSide →
      step s = .refused (.undecodable .laneCount))

/-- 70 R125, 60 R113: with nothing offered the state is held unchanged. Nothing offered is an empty queue (log 5). -/
def Obligations.IdleStepHoldsTheState : Prop :=
  ∀ s : State, configLegal s.cfg = true → s.inputs = [] → step s = .next s

/-! ### Whole-machine rules -/

/-- 10 R32 with the defaults of 00 R7 and R8: the state after reset. That the response ports are as RESET leaves
them is the model's reading (log 16). -/
def Obligations.ResetStateValues : Prop :=
  State.reset.rowCnt = 0 ∧ State.reset.colCnt = 0 ∧ State.reset.buf = [] ∧ State.reset.halted = false ∧
  statusWord State.reset = 0x00000000 ∧
  State.reset.cfg.canvasSide = 64 ∧ State.reset.cfg.coordWidth = 8 ∧ configLegal State.reset.cfg = true ∧
  State.reset.outcome = .accepted ∧ readWordOut State.reset = .error .portHoldsNoValue ∧
  readBytesOut State.reset = .error .portHoldsNoValue ∧
  readPayloadOut State.reset = .error .portHoldsNoValue ∧
  readBuf State.reset 0 = .error .bufPositionEmpty

/-- The state after reset meets the invariant, for either value of the open policy (log 2, 3, 16). -/
def Obligations.ResetStateMeetsInvariant : Prop := State.reset.Inv

/-- 10 R29 and what the model adds to it: every step keeps the invariant. -/
def Obligations.StepKeepsInvariant : Prop :=
  ∀ s t : State, s.Inv → step s = .next t → t.Inv

/-- 70 R121, 10 R27: no step changes the configuration. -/
def Obligations.ConfigurationIsStatic : Prop :=
  ∀ s t : State, step s = .next t → t.cfg = s.cfg

/-- 60 R99 (log 7, 22): the mark is set by the refused operation alone, cleared by none, and read by none. -/
def Obligations.RefusedMarkIsSticky : Prop :=
  (∀ s t : State, step s = .next t → s.refused = true → t.refused = true) ∧
  (∀ (i : Instr) (s t : State), exec i s = .next t →
    (t.refused = true ↔ s.refused = true ∨ i = .reserved)) ∧
  ∀ (i : Instr) (s t : State) (mark : Bool), exec i s = .next t →
    exec i { s with refused := mark } = .next { t with refused := mark || decide (i = .reserved) }

/-- 20 R43, 41 R86, R88: an operation emits exactly when it is an accepted PUSH of the last column; it then emits
one payload, of the buffered words and its own, with `row_cnt` and `last` as sideband. -/
def Obligations.OnlyCompletingPushEmits : Prop :=
  ∀ (i : Instr) (s t : State), s.colCnt.toNat < s.cfg.canvasSide → exec i s = .next t →
    (t.sinkLog = s.sinkLog ∧
      ¬ ∃ p : Pixel, i = pushOf p ∧ s.halted = false ∧ s.colCnt.toNat = s.cfg.canvasSide - 1) ∨
    ∃ p : Pixel, i = pushOf p ∧ s.halted = false ∧ s.colCnt.toNat = s.cfg.canvasSide - 1 ∧
      ∃ e : Emission, t.sinkLog = s.sinkLog ++ [e] ∧ e.row = s.rowCnt ∧
        (e.last = true ↔ s.rowCnt.toNat = s.cfg.canvasSide - 1) ∧
        e.payload = serializeWords (s.buf ++ [encodePixel s.rowCnt.toNat s.colCnt.toNat p])

/-- 41 R92, 20 R42: from a state that meets the invariant, whatever a step emits is one complete payload of
`4 × N` bytes, the payload of `N` pixels of one canvas row. -/
def Obligations.EveryEmissionIsACompleteRow : Prop :=
  ∀ s t : State, s.Inv → step s = .next t →
    t.sinkLog = s.sinkLog ∨
    ∃ (e : Emission) (px : List Pixel), t.sinkLog = s.sinkLog ++ [e] ∧ e.row = s.rowCnt ∧
      px.length = s.cfg.canvasSide ∧ e.payload = rowPayload s.rowCnt.toNat px ∧
      e.payload.length = 4 * s.cfg.canvasSide ∧
      s.buf = rowWords s.rowCnt.toNat 0 (px.take s.colCnt.toNat)

/-- 41 R89: no later step changes an emission the sink was given. -/
def Obligations.EmissionsAreNeverChanged : Prop :=
  ∀ (k : Nat) (s t : State), Host.Core.run Sys2Proof.core k s = .next t → s.sinkLog <+: t.sinkLog

/-- 10 R25, 60 R103, R110: only a PUSH that completes a row under `STOP` with the answer `ERR` sets `halted`, and
only RESET clears it. -/
def Obligations.HaltedSetByTransmitErrorClearedByReset : Prop :=
  ∀ (i : Instr) (s t : State), exec i s = .next t →
    (s.halted = false → (t.halted = true ↔
      (∃ p : Pixel, i = pushOf p) ∧ s.cfg.canvasSide - 1 ≤ s.colCnt.toNat ∧
        s.cfg.txErrPolicy = some .stop ∧ Config.sinkAnswer s.draws = .err)) ∧
    (s.halted = true → (t.halted = false ↔ ∃ op : BitVec 2, i = .reset op))

/-- 60 R103, R102, for each answer of the sink at a completing PUSH: `ERR` halts under `STOP` and not under
`IGNORE`; the counters advance, and the payload of the buffered words and the new one is handed over once, with
`row_cnt` and `last` as sideband, all of it the same for `ERR` as for `OK`. -/
def Obligations.TransmitErrorPolicies : Prop :=
  EventCode.transmitError.number = 3 ∧
  ∀ (answer : SinkResult) (p : Pixel) (s : State), configLegal s.cfg = true → s.halted = false →
    s.rowCnt.toNat < s.cfg.canvasSide → s.colCnt.toNat = s.cfg.canvasSide - 1 →
    ((pushPixel answer p s).halted = true ↔ s.cfg.txErrPolicy = some .stop ∧ answer = .err) ∧
    (pushPixel answer p s).colCnt = 0 ∧ (pushPixel answer p s).buf = [] ∧
    (pushPixel answer p s).rowCnt.toNat = (s.rowCnt.toNat + 1) % s.cfg.canvasSide ∧
    (∃ e : Emission, (pushPixel answer p s).sinkLog = s.sinkLog ++ [e] ∧ e.answer = answer ∧
      e.payload = serializeWords (s.buf ++ [encodePixel s.rowCnt.toNat s.colCnt.toNat p]) ∧
      e.row = s.rowCnt ∧ (e.last = true ↔ s.rowCnt.toNat = s.cfg.canvasSide - 1)) ∧
    statusWord (pushPixel answer p s) =
      statusWord { s with
        colCnt := 0
        rowCnt := BitVec.ofNat 6 ((s.rowCnt.toNat + 1) % s.cfg.canvasSide)
        halted := decide (s.cfg.txErrPolicy = some .stop ∧ answer = .err) }

/-- 41 R96, 60 R104, R110: while halted, no sequence of operations without a RESET moves the framer, emits or
clears `halted`; a PUSH then stalls, and a RESET clears it. The model's reading: a stalled PUSH answers a next
state, so that a sequence goes on past it (log 6), and its other response ports hold no value (log 15). A sequence
goes on likewise past the reserved descriptor (log 7; that a refusal was recorded, which 60 R99 asks a claim about
a run to rule out, stands in the mark `refused`) and past CW, which is the added receiver's (log 11). -/
def Obligations.HaltedFramerIsFrozenUntilReset : Prop :=
  ∀ (is : List Instr) (s : State), s.halted = true → (∀ i ∈ is, ∀ op : BitVec 2, i ≠ .reset op) →
    ∃ t, execAll is s = .next t ∧ t.halted = true ∧ t.rowCnt = s.rowCnt ∧ t.colCnt = s.colCnt ∧
      t.buf = s.buf ∧ t.sinkLog = s.sinkLog ∧
      (∀ r g b : Byte, exec (.push r g b) t = .next
        { t with outcome := .stalled, wordOut := none, bytesOut := none, payloadOut := none }) ∧
      ∀ op : BitVec 2, ∃ u, exec (.reset op) t = .next u ∧ u.halted = false

/-- 60 R105 (log 6, 15): a PUSH offered while halted and not withdrawn makes no progress however many steps are
taken; a withdrawn one leaves the queue with nothing done. That the receiver's framebuffer and the inputs behind the
held PUSH stay as they are too is the model's choice of one queue for offers and arrivals (log 5), which 60 R105
does not say. -/
def Obligations.StalledOfferMakesNoProgress : Prop :=
  ∀ (s : State) (o : Offer) (rest : List Input), configLegal s.cfg = true → s.halted = true →
    s.inputs = .op o :: rest → o.hod = 0b010#3 →
    (o.dropOnStall = false → ∀ k : Nat, Host.Core.run Sys2Proof.core (k + 1) s = .next
      { s with outcome := .stalled, wordOut := none, bytesOut := none, payloadOut := none }) ∧
    (o.dropOnStall = true → step s = .next
      { s with
        outcome := .stalled, wordOut := none, bytesOut := none, payloadOut := none
        inputs := rest })

/-- 41 R90: the framer's position after a PUSH, as numbers; a stalled PUSH moves nothing. That a stalled PUSH answers
a next state is the model's reading (log 6). -/
def Obligations.PushAdvancesThePosition : Prop :=
  ∀ (p : Pixel) (s : State), configLegal s.cfg = true → s.rowCnt.toNat < s.cfg.canvasSide →
    s.colCnt.toNat < s.cfg.canvasSide →
    ∃ t, exec (pushOf p) s = .next t ∧
      (s.halted = true → t.rowCnt = s.rowCnt ∧ t.colCnt = s.colCnt) ∧
      (s.halted = false → s.colCnt.toNat < s.cfg.canvasSide - 1 →
        t.colCnt.toNat = s.colCnt.toNat + 1 ∧ t.rowCnt = s.rowCnt) ∧
      (s.halted = false → s.colCnt.toNat = s.cfg.canvasSide - 1 →
        t.colCnt.toNat = 0 ∧ t.rowCnt.toNat = (s.rowCnt.toNat + 1) % s.cfg.canvasSide) ∧
      t.rowCnt.toNat < s.cfg.canvasSide ∧ t.colCnt.toNat < s.cfg.canvasSide

/-- 41 R95: with `N = 1` every accepted PUSH emits a 4-byte payload with row 0 and `last = 1` and leaves the
position at (0, 0). -/
def Obligations.CanvasSideOnePush : Prop :=
  ∀ (p : Pixel) (s : State), s.Inv → s.cfg.canvasSide = 1 → s.halted = false →
    ∃ t e, exec (pushOf p) s = .next t ∧ t.sinkLog = s.sinkLog ++ [e] ∧
      e.payload = be32 (encodePixel 0 0 p) ∧ e.payload.length = 4 ∧ e.row = 0 ∧ e.last = true ∧
      t.rowCnt = 0 ∧ t.colCnt = 0 ∧ t.buf = [] ∧ t.outcome = .accepted

/-- 41 R87, R91, R93, R94: after a RESET, any sequence of accepted PUSHes encodes its `k`-th pixel at row
`(k div N) mod N` and column `k mod N`: it emits one row payload for every `N` pixels, of exactly those pixels,
rows ascending within a frame and frame after frame, and holds the rest as the words of the partial row. That
every PUSH was accepted is `t.halted = false`, since nothing but RESET clears `halted`; that a sequence answers a
next state past a stalled PUSH too is the model's reading (log 6). -/
def Obligations.PushStreamIsFramedInRasterOrder : Prop :=
  ∀ (op : BitVec 2) (px : List Pixel) (s : State), configLegal s.cfg = true →
    ∃ t, execAll (.reset op :: px.map pushOf) s = .next t ∧
      (t.halted = false →
        t.rowCnt.toNat = px.length / s.cfg.canvasSide % s.cfg.canvasSide ∧
        t.colCnt.toNat = px.length % s.cfg.canvasSide ∧
        t.buf = rowWords t.rowCnt.toNat 0
          (px.drop (px.length / s.cfg.canvasSide * s.cfg.canvasSide)) ∧
        ∃ es : List Emission, t.sinkLog = s.sinkLog ++ es ∧
          es.length = px.length / s.cfg.canvasSide ∧
          ∀ (j : Nat) (e : Emission), es[j]? = some e →
            e.row.toNat = j % s.cfg.canvasSide ∧
            (e.last = true ↔ j % s.cfg.canvasSide = s.cfg.canvasSide - 1) ∧
            e.payload = rowPayload (j % s.cfg.canvasSide)
              ((px.drop (j * s.cfg.canvasSide)).take s.cfg.canvasSide))

/-- 41 R92, 70 R116: a row broken off by RESET before its `N`-th PUSH is never emitted and leaves no trace in the
framer, whatever rows were completed before it: from any state, PUSHes that do not reach the last column and the
RESET after them leave exactly what the RESET alone leaves. That a PUSH offered while halted answers a next state
is the model's reading (log 6). -/
def Obligations.BrokenOffRowIsNeverEmitted : Prop :=
  ∀ (op : BitVec 2) (px : List Pixel) (s : State), configLegal s.cfg = true →
    s.colCnt.toNat + px.length < s.cfg.canvasSide →
    ∃ t, execAll (px.map pushOf ++ [.reset op]) s = .next t ∧
      exec (.reset op) s = .next t ∧ t.sinkLog = s.sinkLog ∧
      t.rowCnt = 0 ∧ t.colCnt = 0 ∧ t.buf = [] ∧ t.halted = false

/-- 40 R80, 41 R97: ENCODE and BUILD_ROW are accepted whatever the framer holds, write nothing but the response
ports, answer the same whatever the framer holds, and change nothing that a PUSH after them computes. Of a halted
PUSH that is the model's reading: it answers a next state (log 6) in which the other response ports hold no value
(log 15), whatever they held before. -/
def Obligations.PureOperationsAreIndependentOfTheFramer : Prop :=
  ∀ (i : Instr) (s : State),
    ((∃ row col r g b, i = .encode row col r g b) ∨ ∃ row lanes, i = .buildRow row lanes) →
    ∃ t, exec i s = .next t ∧ t.outcome = .accepted ∧
      t = { s with
        outcome := t.outcome, wordOut := t.wordOut, bytesOut := t.bytesOut, payloadOut := t.payloadOut } ∧
      (∀ (row col : BitVec 6) (buf : List Word) (halted : Bool),
        exec i { s with rowCnt := row, colCnt := col, buf := buf, halted := halted } =
          .next { t with rowCnt := row, colCnt := col, buf := buf, halted := halted }) ∧
      ∀ r g b : Byte, exec (.push r g b) t = exec (.push r g b) s

/-- 10 R30: until the row completes, no operation's answer depends on the words of the partial row: two states
that differ in `buf` alone give results that differ in `buf` alone, and after RESET they are equal. That every
instruction answers a next state is in part the model's reading: a stalled PUSH (log 6), the reserved descriptor
(log 7), and CW, which is the added receiver's (log 11). -/
def Obligations.PartialRowIsHidden : Prop :=
  ∀ (i : Instr) (s : State) (hidden : List Word),
    (∀ p : Pixel, i = pushOf p → s.halted = false → s.colCnt.toNat < s.cfg.canvasSide - 1) →
    ∃ t hidden', exec i s = .next t ∧
      exec i { s with buf := hidden } = .next { t with buf := hidden' } ∧
      ((∃ op : BitVec 2, i = .reset op) → hidden' = t.buf) ∧
      statusWord { s with buf := hidden } = statusWord s

/-- 30 R61, U3: after an operation of the block, a response port reads as what that operation wrote there, and
reading one it does not write is a fault. After a stalled (log 6) and a refused operation (log 7) too, it is the
model's reading that the other ports hold no value (log 15). -/
def Obligations.ResponsePortsHoldOnlyWhatWasWritten : Prop :=
  ∀ (o : Offer) (s t : State), exec (decodeOffer o) s = .next t →
    (o.hod = 0b000#3 →
      readWordOut t = .ok (encodePixel o.rowIn o.colIn ⟨o.rIn, o.gIn, o.bIn⟩) ∧
      readBytesOut t = .ok (be32 (encodePixel o.rowIn o.colIn ⟨o.rIn, o.gIn, o.bIn⟩))) ∧
    (o.hod ≠ 0b000#3 →
      readWordOut t = .error .portHoldsNoValue ∧ readBytesOut t = .error .portHoldsNoValue) ∧
    (o.hod = 0b001#3 → readPayloadOut t = .ok (rowPayload o.rowIn (o.pixIn.map lanePixel))) ∧
    (o.hod ≠ 0b001#3 → readPayloadOut t = .error .portHoldsNoValue)

/-- 60 R98, R108: the one outcome of each offered operation, in the order of priority: RESET, the reserved
descriptor, the stalled PUSH, and acceptance; at most one payload is emitted. That a refused and a stalled
operation answer a next state (log 7, 6) with the other ports without value (log 15) is the model's reading. -/
def Obligations.OutcomeByPriority : Prop :=
  ∀ (o : Offer) (s t : State), exec (decodeOffer o) s = .next t →
    t.outcome =
      (if o.hod.extractLsb' 2 1 = 1#1 then .accepted
       else if o.hod = 0b011#3 then .refused .reservedOp
       else if o.hod = 0b010#3 ∧ s.halted = true then .stalled
       else .accepted) ∧
    t.sinkLog.length ≤ s.sinkLog.length + 1 ∧
    (t.outcome ≠ .accepted →
      t = { s with
        outcome := t.outcome, wordOut := none, bytesOut := none, payloadOut := none, refused := t.refused })

/-- 10 R24, R23, U2: a position of `buf` below `col_cnt` reads as the word that stands there, which is that of the
row's pixel at that column, and a read at or above it faults. -/
def Obligations.BufferReadsStopAtTheColumn : Prop :=
  ∀ (s : State) (c : Nat), s.Inv →
    (s.colCnt.toNat ≤ c → readBuf s c = .error .bufPositionEmpty) ∧
    (c < s.colCnt.toNat → ∃ (w : Word) (p : Pixel), s.buf[c]? = some w ∧ readBuf s c = .ok w ∧
      w = encodePixel s.rowCnt.toNat c p)

/-- 30 R66, R58, R59: what each line of the notation assembles to, and exactly when it is an assembly error: a number
of pixels other than `N`, or a coordinate its port cannot carry (log 9, 23). What a line assembles to are
operations that the ports can carry, each an offer under the line's descriptor; that RESET takes `0b100` is the
model's reading (log 23). -/
def Obligations.AssembledLinesAreWellFormed : Prop :=
  ∀ (cfg : Config) (line : AsmLine),
    (match line with
      | .reset => assemble cfg line = some [.reset 0]
      | .encode row col p =>
        (row < 2 ^ cfg.coordWidth → col < 2 ^ cfg.coordWidth →
          assemble cfg line = some [.encode row col p.red p.green p.blue]) ∧
        (assemble cfg line = none ↔ 2 ^ cfg.coordWidth ≤ row ∨ 2 ^ cfg.coordWidth ≤ col)
      | .buildRow row px =>
        (row < 2 ^ cfg.coordWidth → px.length = cfg.canvasSide →
          ∃ lanes, assemble cfg line = some [.buildRow row lanes] ∧ lanes.map lanePixel = px) ∧
        (assemble cfg line = none ↔ 2 ^ cfg.coordWidth ≤ row ∨ px.length ≠ cfg.canvasSide)
      | .push p => assemble cfg line = some [.push p.red p.green p.blue]
      | .pushRow px =>
        (px.length = cfg.canvasSide →
          assemble cfg line = some (px.map fun p => .push p.red p.green p.blue)) ∧
        (assemble cfg line = none ↔ px.length ≠ cfg.canvasSide)
      | .pushFill k p => assemble cfg line = some (List.replicate k (.push p.red p.green p.blue))) ∧
    ∀ is, assemble cfg line = some is → ∀ i ∈ is,
      i.WellFormed cfg ∧ ∃ o : Offer, encode i = .op o ∧ decode cfg (.op o) = .ok i ∧
        o.hod = (match line with
          | .reset => 0b100#3
          | .encode _ _ _ => 0b000#3
          | .buildRow _ _ => 0b001#3
          | .push _ | .pushRow _ | .pushFill _ _ => 0b010#3)

/-- 20 R40 with R36 as an assumption about the receiver (log 11): when the words of one row payload reach the
receiver, each pixel's word stands at its own address, and every location of another row is as before. That they
arrive one after another from one queue is the model's choice (log 5). -/
def Obligations.DeliveredRowIsDisplayed : Prop :=
  ∀ (row : Nat) (px : List Pixel) (s : State) (rest : List Input), configLegal s.cfg = true →
    s.framebuffer.wf = true → row < s.cfg.canvasSide → px.length = s.cfg.canvasSide →
    s.inputs = datagramInputs (rowPayload row px) ++ rest →
    ∃ t, Host.Core.run Sys2Proof.core s.cfg.canvasSide s = .next t ∧
      t = { s with framebuffer := t.framebuffer, inputs := rest } ∧
      (∀ (c : Nat) (p : Pixel), px[c]? = some p →
        readPixel t (low6 row) (low6 c) = .ok (encodePixel row c p)) ∧
      ∀ r c : BitVec 6, r ≠ low6 row → readPixel t r c = readPixel s r c

/-! ### The notation as text -/

/-- 30 R66: the tokens of a line are read as the operation whose shown form they are, and as no other; tokens that
are no line's shown form are an assembly error ("an operand count other than the one shown is an assembly error").
A line without tokens holds no operation. A channel above 255 is in no shown form (log 23). -/
def Obligations.NotationLinesAreReadAsShown : Prop :=
  parseTokens [] = some [] ∧
  (∀ (tokens : List AsmToken) (line : AsmLine), parseTokens tokens = some [line] ↔
    tokens = lineTokens line ∧ line ≠ .pushRow [] ∧ ∀ row, line ≠ .buildRow row []) ∧
  ∀ tokens : List AsmToken, parseTokens tokens = none ↔
    tokens ≠ [] ∧ ∀ line, tokens = lineTokens line → line = .pushRow [] ∨ ∃ row, line = .buildRow row []

/-- 30 R66: "numbers in decimal or with a `0x` prefix", "`;` starting a comment", commas between operands, and, as the
model reads it (log 23), blanks and tabs between what is not separated otherwise and hexadecimal digits in either
case: how a line is cut into tokens. A run that begins with no decimal digit is a word, as it stands; one that
begins with a digit is a number or an error. -/
def Obligations.NotationTokens : Prop :=
  (∀ digits : List Nat, digits ≠ [] → (∀ d ∈ digits, d < 10) →
    wordToken (digits.map fun d => Char.ofNat ('0'.toNat + d)) =
      some (.num (digits.foldl (fun n d => 10 * n + d) 0))) ∧
  (∀ digits : List (Nat × Bool), digits ≠ [] → (∀ d ∈ digits, d.1 < 16) →
    wordToken ('0' :: 'x' :: digits.map fun (d, upper) =>
        Char.ofNat (if d < 10 then '0'.toNat + d else (if upper then 'A' else 'a').toNat + (d - 10))) =
      some (.num (digits.foldl (fun n d => 16 * n + d.1) 0))) ∧
  (∀ (c : Char) (cs : List Char),
    (¬ ('0'.toNat ≤ c.toNat ∧ c.toNat ≤ '9'.toNat) → wordToken (c :: cs) = some (.word (c :: cs))) ∧
    ('0'.toNat ≤ c.toNat ∧ c.toNat ≤ '9'.toNat →
      wordToken (c :: cs) = none ∨ ∃ n, wordToken (c :: cs) = some (.num n))) ∧
  (∀ line comment : List Char, ';' ∉ line → parseLine (line ++ ';' :: comment) = parseLine line) ∧
  (∀ rest : List Char,
    lexLine [] (' ' :: rest) = lexLine [] rest ∧
    lexLine [] ('\t' :: rest) = lexLine [] rest ∧
    lexLine [] (',' :: rest) = (lexLine [] rest).map (.comma :: ·) ∧
    lexLine [] ('(' :: rest) = (lexLine [] rest).map (.lpar :: ·) ∧
    lexLine [] (')' :: rest) = (lexLine [] rest).map (.rpar :: ·)) ∧
  ∀ (run rest : List Char) (token : AsmToken), (∀ c ∈ run, c ∉ [';', ' ', '\t', ',', '(', ')']) →
    wordToken run = some token →
    lexLine [] run = some [token] ∧
    ∀ c ∈ [' ', '\t', ',', '(', ')'],
      lexLine [] (run ++ c :: rest) = (lexLine [] (c :: rest)).map (token :: ·)

/-- 30 R66: "one operation per line", pseudo-operations "each expanding to real operations in order": a text assembles
to the operations of its lines, one after another, where an empty or comment-only line holds none (log 23), and is
an assembly error exactly if a line of it is. -/
def Obligations.NotationTextAssemblesLineByLine : Prop :=
  ∀ (cfg : Config) (text : List (List Char)),
    (∀ lines : List (List AsmLine), text.map parseLine = lines.map some →
      assembleText cfg text = (lines.flatten.mapM (assemble cfg)).map List.flatten) ∧
    (assembleText cfg text = none ↔
      ∃ line ∈ text, parseLine line = none ∨ ∃ op, parseLine line = some [op] ∧ assemble cfg op = none)
end

