-- ==== Sys2Proof/Laws/State.lean ====
section
/-! SUPPORT. One lemma for each field of State and each update of it, true by rfl, so that no proof unfolds a
record update. -/

namespace Sys2Proof.Machine

variable (s : State)

/-! ### respond -/

@[simp] theorem State.respond_rowCnt (o : OutcomePort) (w : Option Word) (p : Option (List Byte)) :
    (s.respond o w p).rowCnt = s.rowCnt := rfl
@[simp] theorem State.respond_colCnt (o : OutcomePort) (w : Option Word) (p : Option (List Byte)) :
    (s.respond o w p).colCnt = s.colCnt := rfl
@[simp] theorem State.respond_buf (o : OutcomePort) (w : Option Word) (p : Option (List Byte)) :
    (s.respond o w p).buf = s.buf := rfl
@[simp] theorem State.respond_halted (o : OutcomePort) (w : Option Word) (p : Option (List Byte)) :
    (s.respond o w p).halted = s.halted := rfl
@[simp] theorem State.respond_outcome (o : OutcomePort) (w : Option Word) (p : Option (List Byte)) :
    (s.respond o w p).outcome = o := rfl
@[simp] theorem State.respond_wordOut (o : OutcomePort) (w : Option Word) (p : Option (List Byte)) :
    (s.respond o w p).wordOut = w := rfl
@[simp] theorem State.respond_bytesOut (o : OutcomePort) (w : Option Word) (p : Option (List Byte)) :
    (s.respond o w p).bytesOut = w.map be32 := rfl
@[simp] theorem State.respond_payloadOut (o : OutcomePort) (w : Option Word) (p : Option (List Byte)) :
    (s.respond o w p).payloadOut = p := rfl
@[simp] theorem State.respond_refused (o : OutcomePort) (w : Option Word) (p : Option (List Byte)) :
    (s.respond o w p).refused = s.refused := rfl
@[simp] theorem State.respond_sinkLog (o : OutcomePort) (w : Option Word) (p : Option (List Byte)) :
    (s.respond o w p).sinkLog = s.sinkLog := rfl
@[simp] theorem State.respond_draws (o : OutcomePort) (w : Option Word) (p : Option (List Byte)) :
    (s.respond o w p).draws = s.draws := rfl
@[simp] theorem State.respond_framebuffer (o : OutcomePort) (w : Option Word) (p : Option (List Byte)) :
    (s.respond o w p).framebuffer = s.framebuffer := rfl
@[simp] theorem State.respond_inputs (o : OutcomePort) (w : Option Word) (p : Option (List Byte)) :
    (s.respond o w p).inputs = s.inputs := rfl
@[simp] theorem State.respond_cfg (o : OutcomePort) (w : Option Word) (p : Option (List Byte)) :
    (s.respond o w p).cfg = s.cfg := rfl

/-! ### refuse -/

@[simp] theorem State.refuse_rowCnt (code : EventCode) : (s.refuse code).rowCnt = s.rowCnt := rfl
@[simp] theorem State.refuse_colCnt (code : EventCode) : (s.refuse code).colCnt = s.colCnt := rfl
@[simp] theorem State.refuse_buf (code : EventCode) : (s.refuse code).buf = s.buf := rfl
@[simp] theorem State.refuse_halted (code : EventCode) : (s.refuse code).halted = s.halted := rfl
@[simp] theorem State.refuse_outcome (code : EventCode) : (s.refuse code).outcome = .refused code := rfl
@[simp] theorem State.refuse_wordOut (code : EventCode) : (s.refuse code).wordOut = none := rfl
@[simp] theorem State.refuse_bytesOut (code : EventCode) : (s.refuse code).bytesOut = none := rfl
@[simp] theorem State.refuse_payloadOut (code : EventCode) : (s.refuse code).payloadOut = none := rfl
@[simp] theorem State.refuse_refused (code : EventCode) : (s.refuse code).refused = true := rfl
@[simp] theorem State.refuse_sinkLog (code : EventCode) : (s.refuse code).sinkLog = s.sinkLog := rfl
@[simp] theorem State.refuse_draws (code : EventCode) : (s.refuse code).draws = s.draws := rfl
@[simp] theorem State.refuse_framebuffer (code : EventCode) : (s.refuse code).framebuffer = s.framebuffer := rfl
@[simp] theorem State.refuse_inputs (code : EventCode) : (s.refuse code).inputs = s.inputs := rfl
@[simp] theorem State.refuse_cfg (code : EventCode) : (s.refuse code).cfg = s.cfg := rfl

/-! ### appendWord -/

@[simp] theorem State.appendWord_rowCnt (w : Word) : (s.appendWord w).rowCnt = s.rowCnt := rfl
@[simp] theorem State.appendWord_colCnt (w : Word) : (s.appendWord w).colCnt = s.colCnt + 1 := rfl
@[simp] theorem State.appendWord_buf (w : Word) : (s.appendWord w).buf = s.buf ++ [w] := rfl
@[simp] theorem State.appendWord_halted (w : Word) : (s.appendWord w).halted = s.halted := rfl
@[simp] theorem State.appendWord_outcome (w : Word) : (s.appendWord w).outcome = s.outcome := rfl
@[simp] theorem State.appendWord_wordOut (w : Word) : (s.appendWord w).wordOut = s.wordOut := rfl
@[simp] theorem State.appendWord_bytesOut (w : Word) : (s.appendWord w).bytesOut = s.bytesOut := rfl
@[simp] theorem State.appendWord_payloadOut (w : Word) : (s.appendWord w).payloadOut = s.payloadOut := rfl
@[simp] theorem State.appendWord_refused (w : Word) : (s.appendWord w).refused = s.refused := rfl
@[simp] theorem State.appendWord_sinkLog (w : Word) : (s.appendWord w).sinkLog = s.sinkLog := rfl
@[simp] theorem State.appendWord_draws (w : Word) : (s.appendWord w).draws = s.draws := rfl
@[simp] theorem State.appendWord_framebuffer (w : Word) : (s.appendWord w).framebuffer = s.framebuffer := rfl
@[simp] theorem State.appendWord_inputs (w : Word) : (s.appendWord w).inputs = s.inputs := rfl
@[simp] theorem State.appendWord_cfg (w : Word) : (s.appendWord w).cfg = s.cfg := rfl

/-! ### emit -/

@[simp] theorem State.emit_rowCnt (p : List Byte) (r : BitVec 6) (l : Bool) (a : SinkResult) :
    (s.emit p r l a).rowCnt = s.rowCnt := rfl
@[simp] theorem State.emit_colCnt (p : List Byte) (r : BitVec 6) (l : Bool) (a : SinkResult) :
    (s.emit p r l a).colCnt = s.colCnt := rfl
@[simp] theorem State.emit_buf (p : List Byte) (r : BitVec 6) (l : Bool) (a : SinkResult) :
    (s.emit p r l a).buf = s.buf := rfl
@[simp] theorem State.emit_halted (p : List Byte) (r : BitVec 6) (l : Bool) (a : SinkResult) :
    (s.emit p r l a).halted = s.halted := rfl
@[simp] theorem State.emit_outcome (p : List Byte) (r : BitVec 6) (l : Bool) (a : SinkResult) :
    (s.emit p r l a).outcome = s.outcome := rfl
@[simp] theorem State.emit_wordOut (p : List Byte) (r : BitVec 6) (l : Bool) (a : SinkResult) :
    (s.emit p r l a).wordOut = s.wordOut := rfl
@[simp] theorem State.emit_bytesOut (p : List Byte) (r : BitVec 6) (l : Bool) (a : SinkResult) :
    (s.emit p r l a).bytesOut = s.bytesOut := rfl
@[simp] theorem State.emit_payloadOut (p : List Byte) (r : BitVec 6) (l : Bool) (a : SinkResult) :
    (s.emit p r l a).payloadOut = s.payloadOut := rfl
@[simp] theorem State.emit_refused (p : List Byte) (r : BitVec 6) (l : Bool) (a : SinkResult) :
    (s.emit p r l a).refused = s.refused := rfl
@[simp] theorem State.emit_sinkLog (p : List Byte) (r : BitVec 6) (l : Bool) (a : SinkResult) :
    (s.emit p r l a).sinkLog = s.sinkLog ++ [⟨p, r, l, a⟩] := rfl
@[simp] theorem State.emit_draws (p : List Byte) (r : BitVec 6) (l : Bool) (a : SinkResult) :
    (s.emit p r l a).draws = s.draws + 1 := rfl
@[simp] theorem State.emit_framebuffer (p : List Byte) (r : BitVec 6) (l : Bool) (a : SinkResult) :
    (s.emit p r l a).framebuffer = s.framebuffer := rfl
@[simp] theorem State.emit_inputs (p : List Byte) (r : BitVec 6) (l : Bool) (a : SinkResult) :
    (s.emit p r l a).inputs = s.inputs := rfl
@[simp] theorem State.emit_cfg (p : List Byte) (r : BitVec 6) (l : Bool) (a : SinkResult) :
    (s.emit p r l a).cfg = s.cfg := rfl

/-! ### finishRow -/

@[simp] theorem State.finishRow_rowCnt :
    (s.finishRow).rowCnt = BitVec.ofNat 6 ((s.rowCnt.toNat + 1) % s.cfg.canvasSide) := rfl
@[simp] theorem State.finishRow_colCnt : (s.finishRow).colCnt = 0 := rfl
@[simp] theorem State.finishRow_buf : (s.finishRow).buf = [] := rfl
@[simp] theorem State.finishRow_halted : (s.finishRow).halted = s.halted := rfl
@[simp] theorem State.finishRow_outcome : (s.finishRow).outcome = s.outcome := rfl
@[simp] theorem State.finishRow_wordOut : (s.finishRow).wordOut = s.wordOut := rfl
@[simp] theorem State.finishRow_bytesOut : (s.finishRow).bytesOut = s.bytesOut := rfl
@[simp] theorem State.finishRow_payloadOut : (s.finishRow).payloadOut = s.payloadOut := rfl
@[simp] theorem State.finishRow_refused : (s.finishRow).refused = s.refused := rfl
@[simp] theorem State.finishRow_sinkLog : (s.finishRow).sinkLog = s.sinkLog := rfl
@[simp] theorem State.finishRow_draws : (s.finishRow).draws = s.draws := rfl
@[simp] theorem State.finishRow_framebuffer : (s.finishRow).framebuffer = s.framebuffer := rfl
@[simp] theorem State.finishRow_inputs : (s.finishRow).inputs = s.inputs := rfl
@[simp] theorem State.finishRow_cfg : (s.finishRow).cfg = s.cfg := rfl

/-! ### takeTransmitError -/

@[simp] theorem State.takeTransmitError_rowCnt (a : SinkResult) : (s.takeTransmitError a).rowCnt = s.rowCnt := rfl
@[simp] theorem State.takeTransmitError_colCnt (a : SinkResult) : (s.takeTransmitError a).colCnt = s.colCnt := rfl
@[simp] theorem State.takeTransmitError_buf (a : SinkResult) : (s.takeTransmitError a).buf = s.buf := rfl
@[simp] theorem State.takeTransmitError_halted (a : SinkResult) :
    (s.takeTransmitError a).halted = if s.cfg.txErrPolicy = some .stop ∧ a = .err then true else s.halted := rfl
@[simp] theorem State.takeTransmitError_outcome (a : SinkResult) : (s.takeTransmitError a).outcome = s.outcome := rfl
@[simp] theorem State.takeTransmitError_wordOut (a : SinkResult) : (s.takeTransmitError a).wordOut = s.wordOut := rfl
@[simp] theorem State.takeTransmitError_bytesOut (a : SinkResult) :
    (s.takeTransmitError a).bytesOut = s.bytesOut := rfl
@[simp] theorem State.takeTransmitError_payloadOut (a : SinkResult) :
    (s.takeTransmitError a).payloadOut = s.payloadOut := rfl
@[simp] theorem State.takeTransmitError_refused (a : SinkResult) : (s.takeTransmitError a).refused = s.refused := rfl
@[simp] theorem State.takeTransmitError_sinkLog (a : SinkResult) : (s.takeTransmitError a).sinkLog = s.sinkLog := rfl
@[simp] theorem State.takeTransmitError_draws (a : SinkResult) : (s.takeTransmitError a).draws = s.draws := rfl
@[simp] theorem State.takeTransmitError_framebuffer (a : SinkResult) :
    (s.takeTransmitError a).framebuffer = s.framebuffer := rfl
@[simp] theorem State.takeTransmitError_inputs (a : SinkResult) : (s.takeTransmitError a).inputs = s.inputs := rfl
@[simp] theorem State.takeTransmitError_cfg (a : SinkResult) : (s.takeTransmitError a).cfg = s.cfg := rfl

/-! ### clearFramer -/

@[simp] theorem State.clearFramer_rowCnt : (s.clearFramer).rowCnt = 0 := rfl
@[simp] theorem State.clearFramer_colCnt : (s.clearFramer).colCnt = 0 := rfl
@[simp] theorem State.clearFramer_buf : (s.clearFramer).buf = [] := rfl
@[simp] theorem State.clearFramer_halted : (s.clearFramer).halted = false := rfl
@[simp] theorem State.clearFramer_outcome : (s.clearFramer).outcome = s.outcome := rfl
@[simp] theorem State.clearFramer_wordOut : (s.clearFramer).wordOut = s.wordOut := rfl
@[simp] theorem State.clearFramer_bytesOut : (s.clearFramer).bytesOut = s.bytesOut := rfl
@[simp] theorem State.clearFramer_payloadOut : (s.clearFramer).payloadOut = s.payloadOut := rfl
@[simp] theorem State.clearFramer_refused : (s.clearFramer).refused = s.refused := rfl
@[simp] theorem State.clearFramer_sinkLog : (s.clearFramer).sinkLog = s.sinkLog := rfl
@[simp] theorem State.clearFramer_draws : (s.clearFramer).draws = s.draws := rfl
@[simp] theorem State.clearFramer_framebuffer : (s.clearFramer).framebuffer = s.framebuffer := rfl
@[simp] theorem State.clearFramer_inputs : (s.clearFramer).inputs = s.inputs := rfl
@[simp] theorem State.clearFramer_cfg : (s.clearFramer).cfg = s.cfg := rfl

/-! ### latchWord -/

@[simp] theorem State.latchWord_rowCnt (r c : BitVec 6) (w : Word) : (s.latchWord r c w).rowCnt = s.rowCnt := rfl
@[simp] theorem State.latchWord_colCnt (r c : BitVec 6) (w : Word) : (s.latchWord r c w).colCnt = s.colCnt := rfl
@[simp] theorem State.latchWord_buf (r c : BitVec 6) (w : Word) : (s.latchWord r c w).buf = s.buf := rfl
@[simp] theorem State.latchWord_halted (r c : BitVec 6) (w : Word) : (s.latchWord r c w).halted = s.halted := rfl
@[simp] theorem State.latchWord_outcome (r c : BitVec 6) (w : Word) : (s.latchWord r c w).outcome = s.outcome := rfl
@[simp] theorem State.latchWord_wordOut (r c : BitVec 6) (w : Word) : (s.latchWord r c w).wordOut = s.wordOut := rfl
@[simp] theorem State.latchWord_bytesOut (r c : BitVec 6) (w : Word) :
    (s.latchWord r c w).bytesOut = s.bytesOut := rfl
@[simp] theorem State.latchWord_payloadOut (r c : BitVec 6) (w : Word) :
    (s.latchWord r c w).payloadOut = s.payloadOut := rfl
@[simp] theorem State.latchWord_refused (r c : BitVec 6) (w : Word) : (s.latchWord r c w).refused = s.refused := rfl
@[simp] theorem State.latchWord_sinkLog (r c : BitVec 6) (w : Word) : (s.latchWord r c w).sinkLog = s.sinkLog := rfl
@[simp] theorem State.latchWord_draws (r c : BitVec 6) (w : Word) :
    (s.latchWord r c w).draws = if onCanvas s.cfg r c then s.draws else s.draws + 1 := rfl
@[simp] theorem State.latchWord_framebuffer (r c : BitVec 6) (w : Word) :
    (s.latchWord r c w).framebuffer = s.framebuffer.put (pixelAddress r c).toNat
      (if onCanvas s.cfg r c then some w else Config.outsidePanel s.draws) := rfl
@[simp] theorem State.latchWord_inputs (r c : BitVec 6) (w : Word) : (s.latchWord r c w).inputs = s.inputs := rfl
@[simp] theorem State.latchWord_cfg (r c : BitVec 6) (w : Word) : (s.latchWord r c w).cfg = s.cfg := rfl

/-! ### retire -/

@[simp] theorem State.retire_rowCnt (x : Input) : (s.retire x).rowCnt = s.rowCnt := rfl
@[simp] theorem State.retire_colCnt (x : Input) : (s.retire x).colCnt = s.colCnt := rfl
@[simp] theorem State.retire_buf (x : Input) : (s.retire x).buf = s.buf := rfl
@[simp] theorem State.retire_halted (x : Input) : (s.retire x).halted = s.halted := rfl
@[simp] theorem State.retire_outcome (x : Input) : (s.retire x).outcome = s.outcome := rfl
@[simp] theorem State.retire_wordOut (x : Input) : (s.retire x).wordOut = s.wordOut := rfl
@[simp] theorem State.retire_bytesOut (x : Input) : (s.retire x).bytesOut = s.bytesOut := rfl
@[simp] theorem State.retire_payloadOut (x : Input) : (s.retire x).payloadOut = s.payloadOut := rfl
@[simp] theorem State.retire_refused (x : Input) : (s.retire x).refused = s.refused := rfl
@[simp] theorem State.retire_sinkLog (x : Input) : (s.retire x).sinkLog = s.sinkLog := rfl
@[simp] theorem State.retire_draws (x : Input) : (s.retire x).draws = s.draws := rfl
@[simp] theorem State.retire_framebuffer (x : Input) : (s.retire x).framebuffer = s.framebuffer := rfl
@[simp] theorem State.retire_inputs (x : Input) :
    (s.retire x).inputs = if staysOffered x s then s.inputs else s.inputs.tail := rfl
@[simp] theorem State.retire_cfg (x : Input) : (s.retire x).cfg = s.cfg := rfl

/-! ### withFetchWord -/

@[simp] theorem State.withFetchWord_rowCnt (n w : Nat) : (s.withFetchWord n w).rowCnt = s.rowCnt := rfl
@[simp] theorem State.withFetchWord_colCnt (n w : Nat) : (s.withFetchWord n w).colCnt = s.colCnt := rfl
@[simp] theorem State.withFetchWord_buf (n w : Nat) : (s.withFetchWord n w).buf = s.buf := rfl
@[simp] theorem State.withFetchWord_halted (n w : Nat) : (s.withFetchWord n w).halted = s.halted := rfl
@[simp] theorem State.withFetchWord_outcome (n w : Nat) : (s.withFetchWord n w).outcome = s.outcome := rfl
@[simp] theorem State.withFetchWord_wordOut (n w : Nat) : (s.withFetchWord n w).wordOut = s.wordOut := rfl
@[simp] theorem State.withFetchWord_bytesOut (n w : Nat) : (s.withFetchWord n w).bytesOut = s.bytesOut := rfl
@[simp] theorem State.withFetchWord_payloadOut (n w : Nat) : (s.withFetchWord n w).payloadOut = s.payloadOut := rfl
@[simp] theorem State.withFetchWord_refused (n w : Nat) : (s.withFetchWord n w).refused = s.refused := rfl
@[simp] theorem State.withFetchWord_sinkLog (n w : Nat) : (s.withFetchWord n w).sinkLog = s.sinkLog := rfl
@[simp] theorem State.withFetchWord_draws (n w : Nat) : (s.withFetchWord n w).draws = s.draws := rfl
@[simp] theorem State.withFetchWord_framebuffer (n w : Nat) : (s.withFetchWord n w).framebuffer = s.framebuffer := rfl
@[simp] theorem State.withFetchWord_inputs (n w : Nat) :
    (s.withFetchWord n w).inputs = Input.ofTableWord s.cfg n w :: s.inputs := rfl
@[simp] theorem State.withFetchWord_cfg (n w : Nat) : (s.withFetchWord n w).cfg = s.cfg := rfl

end Sys2Proof.Machine
end

