-- ==== Sys2Proof/Laws/Ops.lean ====
section
/-! SUPPORT. For each shared operation, once, all it can do: the lemmas that proofs cite instead of unfolding
the definitions. -/

namespace Sys2Proof.Machine

/-! ### Bytes, words and payloads -/

theorem be32_length (w : Word) : (be32 w).length = 4 := rfl

theorem ofBe32_be32 (w : Word) : ofBe32 (be32 w) = some w := by
  simp only [ofBe32, be32, Option.some.injEq]
  ext i hi
  simp only [BitVec.getElem_append, BitVec.getElem_extractLsb']
  split
  · simp [BitVec.getLsbD_eq_getElem hi]
  · split
    · rw [BitVec.getLsbD_eq_getElem (by omega)]; congr 1; omega
    · split <;> (rw [BitVec.getLsbD_eq_getElem (by omega)]; congr 1; omega)

theorem rowWords_length (row col : Nat) (px : List Pixel) : (rowWords row col px).length = px.length := by
  induction px generalizing col with
  | nil => rfl
  | cons p ps ih => simp [rowWords, ih]

/-- Adding a pixel on the right adds its word, at the next column. -/
theorem rowWords_concat (row col : Nat) (px : List Pixel) (p : Pixel) :
    rowWords row col (px ++ [p]) = rowWords row col px ++ [encodePixel row (col + px.length) p] := by
  induction px generalizing col with
  | nil => rfl
  | cons q ps ih => simp [rowWords, ih, Nat.add_comm, Nat.add_left_comm]

theorem serializeWords_append (xs ys : List Word) :
    serializeWords (xs ++ ys) = serializeWords xs ++ serializeWords ys := by
  simp [serializeWords]

theorem serializeWords_length (ws : List Word) : (serializeWords ws).length = 4 * ws.length := by
  induction ws with
  | nil => rfl
  | cons w ws ih =>
    have : serializeWords (w :: ws) = be32 w ++ serializeWords ws := rfl
    rw [this, List.length_append, ih, be32_length, List.length_cons]; omega

theorem rowPayload_length (row : Nat) (px : List Pixel) : (rowPayload row px).length = 4 * px.length := by
  rw [rowPayload, serializeWords_length, rowWords_length]

/-- The word of the pixel in position `c` of the list stands at position `c` of the row's words. -/
theorem rowWords_getElem? (row col : Nat) (px : List Pixel) (c : Nat) :
    (rowWords row col px)[c]? = px[c]?.map (encodePixel row (col + c)) := by
  induction px generalizing col c with
  | nil => rfl
  | cons p ps ih =>
    cases c with
    | zero => rfl
    | succ c => simp [rowWords, ih, Nat.add_assoc, Nat.add_comm 1 c]

/-- A datagram that begins with a whole word is met as that word and then the rest. -/
theorem datagramInputs_be32_append (w : Word) (rest : List Byte) :
    datagramInputs (be32 w ++ rest) = .wire (be32 w) :: datagramInputs rest := rfl

/-! ### The notation -/

/-- Three numbers are a pixel exactly when they are its three channels. -/
theorem channelTriple_eq_some {r g b : Nat} {p : Pixel} :
    channelTriple r g b = some p ↔ r = p.red.toNat ∧ g = p.green.toNat ∧ b = p.blue.toNat := by
  constructor
  · intro h
    unfold channelTriple at h
    split at h
    · cases h
      simp only [BitVec.toNat_ofNat]
      omega
    · cases h
  · rintro ⟨rfl, rfl, rfl⟩
    have hr := p.red.isLt
    have hg := p.green.isLt
    have hb := p.blue.isLt
    simp only [channelTriple, hr, hg, hb, and_self, if_true, BitVec.ofNat_toNat, BitVec.setWidth_eq]

/-- The tokens of one or more triples are read as those pixels. -/
theorem parseTriples_tripleTokens (px : List Pixel) (h : px ≠ []) :
    parseTriples (tripleTokens px) = some px := by
  have channels (p : Pixel) : channelTriple p.red.toNat p.green.toNat p.blue.toNat = some p :=
    channelTriple_eq_some.mpr ⟨rfl, rfl, rfl⟩
  induction px with
  | nil => exact absurd rfl h
  | cons p ps ih =>
    cases ps with
    | nil => simp [tripleTokens, channelTokens, parseTriples, channels]
    | cons q qs => simpa [tripleTokens, channelTokens, parseTriples, channels] using ih (by simp)

/-- Lines assemble to the operations of each, in order. -/
theorem assembleLines_eq_mapM (cfg : Config) (lines : List AsmLine) :
    assembleLines cfg lines = (lines.mapM (assemble cfg)).map List.flatten := by
  induction lines with
  | nil => rfl
  | cons line lines ih =>
    simp only [assembleLines, ih, List.mapM_cons]
    cases assemble cfg line <;> cases lines.mapM (assemble cfg) <;> simp

/-- A character that is no decimal digit has no value as one. -/
theorem digitValue_ten_eq_none {c : Char} (h : ¬ ('0'.toNat ≤ c.toNat ∧ c.toNat ≤ '9'.toNat)) :
    digitValue 10 c = none := by
  have ha : 'a'.toNat = 97 := rfl
  have hA : 'A'.toNat = 65 := rfl
  simp only [digitValue, h, if_false]
  repeat' split
  all_goals first | rfl | omega

/-! ### The receiver's memory -/

theorem Memory.wfFrom_mono {lo lo' : Nat} {m : Memory} (h : Memory.wfFrom lo m) (hle : lo' ≤ lo) :
    Memory.wfFrom lo' m := by
  cases m with
  | nil => rfl
  | cons q m =>
    obtain ⟨a, w⟩ := q
    simp only [Memory.wfFrom, Bool.and_eq_true, decide_eq_true_eq] at *
    exact ⟨⟨by omega, h.1.2⟩, h.2⟩

theorem Memory.wfFrom_put {lo a : Nat} {m : Memory} {v : Option Word} (hm : Memory.wfFrom lo m)
    (hlo : lo ≤ a) (ha : a < 4096) : Memory.wfFrom lo (m.put a v) := by
  induction m generalizing lo with
  | nil => cases v <;> simp [Memory.put, Memory.wfFrom, hlo, ha]
  | cons q m ih =>
    obtain ⟨b, x⟩ := q
    simp only [Memory.wfFrom, Bool.and_eq_true, decide_eq_true_eq] at hm
    obtain ⟨⟨hb, hb'⟩, hrest⟩ := hm
    simp only [Memory.put]
    split
    · subst_vars
      cases v with
      | none => exact Memory.wfFrom_mono hrest (by omega)
      | some w => simp [Memory.wfFrom, hb, hb', hrest]
    · split
      · have : a + 1 ≤ b := by omega
        cases v <;> simp [Memory.wfFrom, hlo, ha, hb, hb', hrest, this]
      · have hput := ih hrest (by omega)
        simp [Memory.wfFrom, hb, hb', hput]

/-- Every write keeps the canonical form. -/
theorem Memory.wf_put {m : Memory} {a : Nat} {v : Option Word} (hm : m.wf) (ha : a < 4096) :
    (m.put a v).wf := Memory.wfFrom_put hm (Nat.zero_le a) ha

theorem Memory.read_below {lo a : Nat} {m : Memory} (hm : Memory.wfFrom lo m) (ha : a < lo) :
    m.read a = none := by
  induction m generalizing lo with
  | nil => rfl
  | cons q m ih =>
    obtain ⟨b, x⟩ := q
    simp only [Memory.wfFrom, Bool.and_eq_true, decide_eq_true_eq] at hm
    have hne : a ≠ b := by omega
    simpa [Memory.read, hne] using ih hm.2 (by omega)

/-- A read after a write to the same location gives what was written. -/
theorem Memory.read_put_same {m : Memory} {a : Nat} {v : Option Word} (hm : m.wf) :
    (m.put a v).read a = v := by
  have key : ∀ (lo : Nat) (m : Memory), Memory.wfFrom lo m → (m.put a v).read a = v := by
    intro lo m
    induction m generalizing lo with
    | nil => intro _; cases v <;> simp [Memory.put, Memory.read]
    | cons q m ih =>
      obtain ⟨b, x⟩ := q
      intro h
      have hrest : Memory.wfFrom (b + 1) m := by
        simp only [Memory.wfFrom, Bool.and_eq_true] at h; exact h.2
      simp only [Memory.put]
      split
      · subst_vars
        cases v with
        | none => exact Memory.read_below hrest (by omega)
        | some w => simp [Memory.read]
      · rename_i hne
        split
        · cases v with
          | none => simpa [Memory.read, hne] using Memory.read_below hrest (by omega)
          | some w => simp [Memory.read]
        · simpa [Memory.read, hne] using ih _ hrest
  exact key 0 m hm

/-- A write leaves every other location alone. -/
theorem Memory.read_put_other {m : Memory} {a b : Nat} {v : Option Word} (hne : b ≠ a) :
    (m.put a v).read b = m.read b := by
  induction m with
  | nil => cases v <;> simp [Memory.put, Memory.read, hne]
  | cons q m ih =>
    obtain ⟨c, x⟩ := q
    simp only [Memory.put]
    split
    · subst_vars
      cases v <;> simp [Memory.read, hne]
    · split
      · cases v <;> simp [Memory.read, hne]
      · simp [Memory.read, ih]

theorem reset_framebuffer_wf : State.reset.framebuffer.wf := rfl

/-- A latch keeps the canonical form: a pixel address has 12 bits. -/
theorem latchWord_framebuffer_wf (s : State) (r c : BitVec 6) (w : Word) (h : s.framebuffer.wf) :
    (s.latchWord r c w).framebuffer.wf := by
  rw [State.latchWord_framebuffer]
  exact Memory.wf_put h (pixelAddress r c).isLt

/-! ### The framer -/

/-- An accepted PUSH either appends its word or completes the row. -/
theorem pushPixel_cases (answer : SinkResult) (p : Pixel) (s : State) :
    (s.colCnt.toNat < s.cfg.canvasSide - 1 ∧
      pushPixel answer p s = s.appendWord (encodePixel s.rowCnt.toNat s.colCnt.toNat p)) ∨
    (s.cfg.canvasSide - 1 ≤ s.colCnt.toNat ∧
      pushPixel answer p s = completeRow answer (encodePixel s.rowCnt.toNat s.colCnt.toNat p) s) := by
  unfold pushPixel
  split
  · exact .inl ⟨‹_›, rfl⟩
  · exact .inr ⟨by omega, rfl⟩

/-- What a PUSH answers: it is stalled while halted, and accepted otherwise. -/
theorem execPush_cases (r g b : Byte) (s : State) :
    (s.halted = true ∧ exec (.push r g b) s = .next (s.respond .stalled none none)) ∨
    (s.halted = false ∧ exec (.push r g b) s =
      .next ((pushPixel (Config.sinkAnswer s.draws) ⟨r, g, b⟩ s).respond .accepted none none)) := by
  cases h : s.halted <;> simp [exec, execPush, h]

/-! ### The machine -/

/-- Every meaning answers a next state: no instruction of the table faults or is refused by the model. -/
theorem exec_answers_next (i : Instr) (s : State) : ∃ t, exec i s = .next t := by
  cases i with
  | push r g b =>
    rcases execPush_cases r g b s with ⟨_, h⟩ | ⟨_, h⟩ <;> exact ⟨_, h⟩
  | _ => exact ⟨_, rfl⟩

/-- What a step can do when it answers a next state: hold still with nothing offered, or perform the
instruction its next input decodes to. -/
theorem step_next_cases {s t : State} (h : step s = .next t) :
    configLegal s.cfg = true ∧
    ((s.inputs = [] ∧ t = s) ∨
      ∃ x rest i u, s.inputs = x :: rest ∧ decode s.cfg x = .ok i ∧ exec i s = .next u ∧ t = u.retire x) := by
  unfold step at h
  split at h
  · refine ⟨‹_›, ?_⟩
    split at h
    · rename_i hin
      injection h with h
      exact .inl ⟨hin, h.symm⟩
    · rename_i x rest hin
      split at h
      · cases h
      · rename_i i hdec
        obtain ⟨u, hu⟩ := exec_answers_next i s
        rw [hu] at h
        injection h with h
        exact .inr ⟨x, rest, i, u, hin, hdec, hu, h.symm⟩
  · cases h

/-- A run of any core takes a step that answers a next state, and goes on from there. -/
theorem run_succ (M : Host.Core) {k : Nat} {s t : M.State} (h : M.step s = .next t) :
    M.run (k + 1) s = M.run k t := by
  rw [Host.Core.run, h]

/-- A run of this machine takes a step that answers a next state, and goes on from there. -/
theorem core_run_succ {k : Nat} {s t : State} (h : step s = .next t) :
    Host.Core.run Sys2Proof.core (k + 1) s = Host.Core.run Sys2Proof.core k t :=
  run_succ Sys2Proof.core h

/-- What the decoder can accept: a descriptor whose instruction its ports can carry, or the four bytes of a
command word whose two high bits are 0. -/
theorem decode_ok_cases {cfg : Config} {x : Input} {i : Instr} (h : decode cfg x = .ok i) :
    (∃ o, x = .op o ∧ i = decodeOffer o ∧ i.WellFormed cfg) ∨
    (∃ b w, x = .wire b ∧ ofBe32 b = some w ∧ decodeWord w = .ok i) := by
  cases x with
  | op o =>
    simp only [decode] at h
    split at h
    · injection h with h
      subst h
      exact .inl ⟨o, rfl, rfl, ‹_›⟩
    · cases h
  | wire b =>
    simp only [decode] at h
    split at h
    · exact .inr ⟨b, _, rfl, ‹_›, h⟩
    · cases h

end Sys2Proof.Machine
end

