-- ==== Sys2Proof/Laws/PerInstr.lean ====
section
/-! SUPPORT. The per-instruction family OpcodeRow: what an instruction is encoded as belongs to its own row of
the opcode table and to no other. -/

namespace Sys2Proof.Laws

/-- Whether an input belongs to the table row of a mnemonic: a descriptor under its row's mask, or four wire
bytes whose first has its two high bits 0 (the mask `0xC0000000` of CW). -/
def inRow (mnemonic : String) : Input → Bool
  | .op o => hodTable.any fun r => r.covers o.hod && r.mnemonic == mnemonic
  | .wire bytes =>
    mnemonic == "CW" && bytes.length == 4 && ((bytes.headD 0).extractLsb' 6 2 == 0#2)

/-- The mnemonics of the opcode table. -/
def tableMnemonics : List String := ["RESET", "ENCODE", "BUILD_ROW", "PUSH", "(reserved)", "CW"]

/-- An instruction's encoding belongs to exactly one row of the table: its own. -/
def OpcodeRow.Statement (i : Instr) : Prop :=
  tableMnemonics.filter (fun m => inRow m (encode i)) = [i.mnemonic]

theorem OpcodeRow.reset (op : BitVec 2) : OpcodeRow.Statement (.reset op) := by
  revert op; unfold OpcodeRow.Statement; decide

theorem OpcodeRow.encode (row col : Nat) (red green blue : Byte) :
    OpcodeRow.Statement (.encode row col red green blue) := by
  simp [OpcodeRow.Statement, tableMnemonics, inRow, Sys2Proof.encode, idlePorts, hodTable, HodRow.covers,
    Instr.mnemonic]

theorem OpcodeRow.buildRow (row : Nat) (lanes : List (BitVec 24)) :
    OpcodeRow.Statement (.buildRow row lanes) := by
  simp [OpcodeRow.Statement, tableMnemonics, inRow, Sys2Proof.encode, idlePorts, hodTable, HodRow.covers,
    Instr.mnemonic]

theorem OpcodeRow.push (red green blue : Byte) : OpcodeRow.Statement (.push red green blue) := by
  simp [OpcodeRow.Statement, tableMnemonics, inRow, Sys2Proof.encode, idlePorts, hodTable, HodRow.covers,
    Instr.mnemonic]

theorem OpcodeRow.reserved : OpcodeRow.Statement .reserved := rfl

theorem OpcodeRow.cw (row col blueQ redQ greenQ : BitVec 6) :
    OpcodeRow.Statement (.cw row col blueQ redQ greenQ) := by
  have h : ((composeFields row col blueQ redQ greenQ).extractLsb' 24 8).extractLsb' 6 2 = 0#2 := by
    ext i hi
    simp only [composeFields, BitVec.getElem_extractLsb']
    interval_cases i <;> simp
  simp [OpcodeRow.Statement, tableMnemonics, inRow, Sys2Proof.encode, be32, Instr.mnemonic, h]

end Sys2Proof.Laws
end

