-- ==== Sys2Proof/Tests/Slice0.lean ====
section
/-! SUPPORT. The model's own tests. Expected results come from spec/: the vectors of 95_test_vectors.md (named in
each comment) and the encodings of 30_encoding.md, written out bit by bit. The witnesses show that the
hypotheses of the statements can be met, at the boundary of each clause. -/

namespace Sys2Proof.Tests
open Sys2Proof Sys2Proof.Machine

/-! ### Helpers -/

/-- A configuration of side `n`. -/
def cfgOf (n : Nat) (policy : TxErrPolicy) : Config := ⟨n, 8, some policy⟩

/-- The post-reset state of a block of side `n`. -/
def fresh (n : Nat) (policy : TxErrPolicy) : State := { State.reset with cfg := cfgOf n policy }

/-- A block of side 2 at position (`row`, `col`). -/
def at2 (row col : BitVec 6) (buf : List Word) (halted : Bool) : State :=
  { fresh 2 .stop with rowCnt := row, colCnt := col, buf := buf, halted := halted }

/-- One state field of what an instruction answers. -/
def after {α : Type} (i : Instr) (s : State) (f : State → α) : Option α :=
  match exec i s with
  | .next t => some (f t)
  | .fault _ => none
  | .refused _ => none

/-- One state field of what a step answers. -/
def afterStep {α : Type} (s : State) (f : State → α) : Option α :=
  match step s with
  | .next t => some (f t)
  | .fault _ => none
  | .refused _ => none

/-- The four elements of 10 R18. -/
structure FramerView where
  row : BitVec 6
  col : BitVec 6
  buf : List Word
  halted : Bool
deriving DecidableEq, Repr

/-- The framer's part of a state. -/
def framer (s : State) : FramerView := ⟨s.rowCnt, s.colCnt, s.buf, s.halted⟩

/-- The reason of a refused step. -/
def refusalOf (s : State) : Option Refusal :=
  match step s with
  | .next _ => none
  | .fault _ => none
  | .refused r => some r

/-! ### Well-formedness: each check refuses an ill-formed term (30 R58) -/

theorem test_wellFormed_row_too_wide : ¬ (Instr.encode 256 0 0 0 0).WellFormed (cfgOf 2 .stop) := by decide
theorem test_wellFormed_col_too_wide : ¬ (Instr.encode 0 256 0 0 0).WellFormed (cfgOf 2 .stop) := by decide
theorem test_wellFormed_row_in_buildRow : ¬ (Instr.buildRow 256 [0, 0]).WellFormed (cfgOf 2 .stop) := by decide
theorem test_wellFormed_lane_missing : ¬ (Instr.buildRow 0 [0]).WellFormed (cfgOf 2 .stop) := by decide
theorem test_wellFormed_lane_too_many : ¬ (Instr.buildRow 0 [0, 0, 0]).WellFormed (cfgOf 2 .stop) := by decide
theorem test_wellFormed_widest_row : (Instr.encode 255 255 0 0 0).WellFormed (cfgOf 2 .stop) := by decide

/-! ### Configuration (X5 to X8, 60 R100) -/

theorem test_config_X5_side_65 : refusalOf (fresh 65 .stop) = some .configRange := by decide
theorem test_config_X6_side_0 : refusalOf (fresh 0 .stop) = some .configRange := by decide
theorem test_config_X7_width_5 : configLegal ⟨64, 5, some .ignore⟩ = false := by decide
theorem test_config_X8_smallest : configLegal ⟨1, 6, some .ignore⟩ = true := by decide
theorem test_config_unknown_policy : configLegal ⟨1, 6, none⟩ = false := by decide

/-! ### Decoding: words written out from 30 R59 and R52 -/

theorem test_decode_reset : decodeTableWord 8 0b100 = some (.reset 0b00) := by decide
/-- X3: `RST = 1` with `OP = 0b11` is RESET. -/
theorem test_decode_X3_reset_over_reserved : decodeTableWord 8 0b111 = some (.reset 0b11) := by decide
theorem test_decode_encode : decodeTableWord 8 0b000 = some (.encode 0 0 0 0 0) := by decide
theorem test_decode_buildRow : decodeTableWord 8 0b001 = some (.buildRow 0 (List.replicate 64 0)) := by rfl
theorem test_decode_push : decodeTableWord 8 0b010 = some (.push 0 0 0) := by decide
theorem test_decode_reserved : decodeTableWord 8 0b011 = some .reserved := by decide
/-- `00 rrrrrr cccccc BBBBBB RRRRRR GGGGGG`, each field another value. -/
theorem test_decode_cw :
    decodeTableWord 32 0b00100001010010000011000100110101 =
      some (.cw 0b100001 0b010010 0b000011 0b000100 0b110101) := by decide
theorem test_decode_cw_bit31 : decodeTableWord 32 0x80000000 = none := by decide
theorem test_decode_no_descriptor : decodeTableWord 8 0b1000 = none := by decide
/-- The rows of the operation map do not overlap and leave no descriptor out (30 R59). -/
theorem test_hod_rows_partition :
    ∀ hod : BitVec 3, (hodTable.filter (·.covers hod)).length = 1 := by decide

/-! ### The encode function (E7, E11, E17, E21, E27, W3) -/

theorem test_encode_E7 : encodePixel 255 255 ⟨255, 255, 255⟩ = 0x3FFFFFFF := by decide
theorem test_encode_E11 : encodePixel 65 130 ⟨128, 64, 32⟩ = 0x01088810 := by decide
theorem test_encode_E17 : encodePixel 0 0 ⟨3, 3, 3⟩ = 0x00000000 := by decide
theorem test_encode_E21 : encodePixel 0 0 ⟨252, 253, 254⟩ = 0x0003FFFF := by decide
theorem test_encode_E27 : encodePixel 62 1 ⟨0x7F, 0xFE, 0x01⟩ = 0x3E0407FF := by decide
theorem test_be32_E26 : be32 0x0A50CC99 = [0x0A, 0x50, 0xCC, 0x99] := by decide

/-! ### The instructions, one step each -/

/-- E25 and R74's example; the bytes on the wire. -/
theorem test_exec_encode_E25 :
    after (.encode 5 9 0x12 0x34 0x56) (fresh 2 .stop) (fun t => (t.wordOut, t.bytesOut)) =
      some (some 0x0525510D, some [0x05, 0x25, 0x51, 0x0D]) := by decide
/-- T4: accepted while halted, the framer unchanged. -/
theorem test_exec_encode_T4 :
    after (.encode 0 0 255 0 0) (at2 1 0 [] true) (fun t => (t.outcome, t.wordOut, framer t)) =
      some (.accepted, some 0x00000FC0, ⟨1, 0, [], true⟩) := by decide
/-- B4, a block of side 4. -/
theorem test_exec_buildRow_B4 :
    after (.buildRow 3 [0x000000, 0xFFFFFF, 0x112233, 0xAABBCC]) (fresh 4 .stop) (·.payloadOut) =
      some (some [0x03, 0x00, 0x00, 0x00, 0x03, 0x07, 0xFF, 0xFF, 0x03, 0x08, 0xC1, 0x08,
        0x03, 0x0F, 0x3A, 0xAE]) := by decide
/-- B5: row 66 aliases to row 2. -/
theorem test_exec_buildRow_B5 :
    after (.buildRow 66 [0xFF0000, 0x0000FF]) (fresh 2 .stop) (·.payloadOut) =
      some (some [0x02, 0x00, 0x0F, 0xC0, 0x02, 0x07, 0xF0, 0x00]) := by decide
/-- F1. -/
theorem test_exec_push_F1 :
    after (.push 255 0 0) (fresh 2 .stop) (fun t => (framer t, statusWord t, t.sinkLog)) =
      some (⟨0, 1, [0x00000FC0], false⟩, 0x00000001, []) := by decide
/-- T6 and F2's emission, with the sink's answer `ERR` given. -/
theorem test_completeRow_T6 :
    (let t := pushPixel .err ⟨0, 255, 0⟩ (at2 0 1 [0x00000FC0] false)
     (framer t, statusWord t, t.sinkLog)) =
      (⟨1, 0, [], true⟩, 0x00001040,
        [⟨[0x00, 0x00, 0x0F, 0xC0, 0x00, 0x04, 0x00, 0x3F], 0, false, .err⟩]) := by decide
/-- T1: under `IGNORE` the answer `ERR` changes nothing more; side 1, so the row is the last one. -/
theorem test_completeRow_T1 :
    (let t := pushPixel .err ⟨0, 0, 255⟩ (fresh 1 .ignore)
     (framer t, t.sinkLog)) =
      (⟨0, 0, [], false⟩, [⟨[0x00, 0x03, 0xF0, 0x00], 0, true, .err⟩]) := by decide
/-- T3: a PUSH while halted stalls. -/
theorem test_exec_push_T3 :
    after (.push 1 2 3) (at2 1 0 [] true) (fun t => (t.outcome, framer t, t.sinkLog)) =
      some (.stalled, ⟨1, 0, [], true⟩, []) := by decide
/-- X1: a partial row is lost. -/
theorem test_exec_reset_X1 :
    after (.reset 0) (at2 0 1 [0x00000FC0] false) (fun t => (framer t, statusWord t, t.sinkLog)) =
      some (⟨0, 0, [], false⟩, 0x00000000, []) := by decide
/-- T5: RESET clears `halted`, and the mark of 60 R99 stays. -/
theorem test_exec_reset_T5 :
    after (.reset 3) { at2 1 0 [] true with refused := true } (fun t => (t.halted, t.refused)) =
      some (false, true) := by decide
/-- X2: refused with code 2, the framer unchanged, the mark set. -/
theorem test_exec_reserved_X2 :
    after .reserved (at2 1 1 [0x0103F000] true) (fun t => (t.outcome, framer t, t.refused)) =
      some (.refused .reservedOp, ⟨1, 1, [0x0103F000], true⟩, true) := by decide
/-- E25's word reaches the receiver at row 5, column 9. -/
theorem test_exec_cw_latched :
    after (.cw 5 9 0x15 0x04 0x0D) (fresh 64 .stop) (fun t => t.framebuffer) =
      some [(5 * 64 + 9, 0x0525510D)] := by decide
/-- X4 through a step: a descriptor with `RST = 1` is RESET whatever `OP` and the ports hold. -/
theorem test_step_X4_reset :
    afterStep { at2 0 1 [0x00000FC0] true with
        inputs := [.op { idlePorts 0b110#3 with rIn := 1, gIn := 2, bIn := 3 }] }
      (fun t => (framer t, t.inputs)) = some (⟨0, 0, [], false⟩, []) := by decide
/-- 60 R105: a stalled offer stays; one the host withdraws goes. -/
theorem test_step_stalled_offer_stays :
    afterStep { at2 0 0 [] true with inputs := [.op (idlePorts 0b010#3)] } (fun t => t.inputs.length) =
      some 1 := by decide
theorem test_step_withdrawn_offer_goes :
    afterStep { at2 0 0 [] true with inputs := [.op { idlePorts 0b010#3 with dropOnStall := true }] }
      (fun t => (t.outcome, t.inputs.length)) = some (.stalled, 0) := by decide
/-- The opcode table's PUSH as the first instruction after reset. -/
theorem test_step_first_instruction :
    afterStep (State.reset.withFetchWord 8 0b010) (fun t => (t.colCnt, t.inputs)) = some (1, []) := by decide
theorem test_step_first_command_word :
    afterStep (State.reset.withFetchWord 32 0x0525510D) (fun t => t.framebuffer) =
      some [(5 * 64 + 9, 0x0525510D)] := by decide
/-- 10 R24: reading a position past `col_cnt` is a fault. -/
theorem test_readBuf_past_column : readBuf (at2 0 1 [0x00000FC0] false) 1 = .error .bufPositionEmpty := by decide
/-- The receiver's memory: a value taken away leaves the list as it was. -/
theorem test_memory_canonical :
    Memory.put (Memory.put [(3, 1), (9, 2)] 5 (some 7)) 5 none = [(3, 1), (9, 2)] := by decide
/-- 30 R66: operations, a comment line, both number forms and a pseudo-operation, as text. -/
theorem test_assemble_text :
    assembleText (cfgOf 2 .stop)
      [ ['R', 'E', 'S', 'E', 'T'],
        ['B', 'U', 'I', 'L', 'D', '_', 'R', 'O', 'W', ' ', '1', ',', '(', '2', '5', '5', ',', '0', ',', '0',
            ')', ',', '(', '0', ',', '0', ',', '0', 'x', 'F', 'F', ')'],
        [';', ' ', 'x'],
        ['P', 'U', 'S', 'H', '_', 'F', 'I', 'L', 'L', ' ', '2', ',', ' ', '1', ',', '0', 'x', '1', '0', ',',
            '3', ';'] ] =
      some [.reset 0, .buildRow 1 [0xFF0000, 0x0000FF], .push 1 16 3, .push 1 16 3] := by decide
/-- "an operand count other than the one shown is an assembly error" (30 R66). -/
theorem test_assemble_text_operand_missing :
    assembleText (cfgOf 2 .stop) [['P', 'U', 'S', 'H', ' ', '1', ',', '2']] = none := by decide
theorem test_assemble_pushRow_count : assemble (cfgOf 2 .stop) (.pushRow [⟨255, 0, 0⟩]) = none := by decide

/-! ### Witnesses: the hypotheses of each statement that has any can be met together -/

/-- The first and the last pixel of a row of two. -/
theorem witness_RowPayloadLayout :
    [(⟨1, 2, 3⟩ : Pixel), ⟨4, 5, 6⟩][0]? = some ⟨1, 2, 3⟩ ∧
      [(⟨1, 2, 3⟩ : Pixel), ⟨4, 5, 6⟩][1]? = some ⟨4, 5, 6⟩ := by decide

/-- The least and the greatest word whose two high bits are clear. -/
theorem witness_ProducedWordsAreThoseWithHighBitsClear :
    (0 : Word).extractLsb' 30 2 = 0#2 ∧ (0x3FFFFFFF : Word).extractLsb' 30 2 = 0#2 := by decide

theorem witness_CanvasPositionsHaveDistinctAddresses :
    configLegal (cfgOf 64 .stop) = true ∧ 63 < (cfgOf 64 .stop).canvasSide ∧
      0 < (cfgOf 64 .stop).canvasSide ∧
      pixelAddress (low6 63) (low6 0) = pixelAddress (low6 63) (low6 0) := by decide

/-- The coordinates at the widest value of their ports. -/
theorem witness_EncodeOperation :
    (⟨0b000#3, 255, 255, 1, 2, 3, [], false⟩ : Offer).hod = 0b000#3 ∧
      255 < 2 ^ (fresh 2 .stop).cfg.coordWidth ∧
      (3 : Byte).toNat ≤ 3 ∧ 252 ≤ (252 : Byte).toNat := by decide

theorem witness_BuildRowOperation :
    (⟨0b001#3, 255, 0, 0, 0, 0, [1, 2], false⟩ : Offer).hod = 0b001#3 ∧
      255 < 2 ^ (fresh 2 .stop).cfg.coordWidth ∧ [1, 2].length = (fresh 2 .stop).cfg.canvasSide := by decide

/-- Column 0 of side 2 (the row stays open), halted and not. -/
theorem witness_PushOperation_open :
    (idlePorts 0b010#3).hod = 0b010#3 ∧
      (at2 0 0 [] false).colCnt.toNat < (at2 0 0 [] false).cfg.canvasSide - 1 ∧
      (at2 0 0 [] true).colCnt.toNat < (at2 0 0 [] true).cfg.canvasSide ∧ (at2 0 0 [] true).halted = true := by
  decide
/-- Column `N - 1` (the row completes). -/
theorem witness_PushOperation_completing :
    (at2 1 1 [0] false).colCnt.toNat < (at2 1 1 [0] false).cfg.canvasSide ∧
      ¬ (at2 1 1 [0] false).colCnt.toNat < (at2 1 1 [0] false).cfg.canvasSide - 1 := by decide

theorem witness_ResetOperation :
    (idlePorts 0b100#3).hod.extractLsb' 2 1 = 1#1 ∧ (idlePorts 0b111#3).hod.extractLsb' 2 1 = 1#1 ∧
      exec (.reset 0) State.reset = .next State.reset := ⟨by decide, by decide, rfl⟩

theorem witness_ReservedDescriptorRefused : (idlePorts 0b011#3).hod = 0b011#3 := by decide

/-- Position (1, 1) of side 2 is on the canvas; (2, 0) and (0, 2) are not. -/
theorem witness_CommandWordLatchedOnCanvas :
    (fresh 2 .stop).framebuffer.wf = true ∧ (1 : BitVec 6).toNat < (fresh 2 .stop).cfg.canvasSide := by decide
theorem witness_CommandWordOutsideCanvas :
    (fresh 2 .stop).framebuffer.wf = true ∧ (fresh 2 .stop).cfg.canvasSide ≤ (2 : BitVec 6).toNat := by decide

/-- One descriptor for each clause of the map. -/
theorem witness_DescriptorMapIsTotal :
    ∀ hod : BitVec 3, (idlePorts hod).hod = hod ∧ (hodTable[0]?.map (·.covers 0b100#3)) = some true := by decide

theorem witness_DecodeOfEncodeIsIdentity :
    (Instr.encode 255 0 1 2 3).WellFormed (cfgOf 2 .stop) ∧ (Instr.buildRow 0 [1, 2]).WellFormed (cfgOf 2 .stop) ∧
      (Instr.reset 3).WellFormed (cfgOf 2 .stop) ∧ (Instr.cw 1 2 3 4 5).WellFormed (cfgOf 2 .stop) := by decide

theorem witness_EncodeOfDecodeIsCanonical :
    (decode (cfgOf 2 .stop) (.wire [0x05, 0x25, 0x51, 0x0D])).toOption = some (.cw 5 9 0x15 0x04 0x0D) ∧
      (decode (cfgOf 2 .stop) (.op (idlePorts 0b111#3))).toOption = some (.reset 3) := by decide

/-- Two PUSH offers that differ in the ports PUSH does not name, and two resets that differ in all. -/
theorem witness_UnnamedPortsIgnored :
    (⟨0b010#3, 5, 300, 1, 2, 3, [9], false⟩ : Offer).hod = (⟨0b010#3, 0, 0, 1, 2, 3, [], true⟩ : Offer).hod ∧
      (⟨0b110#3, 5, 300, 1, 2, 3, [9], false⟩ : Offer).hod = (idlePorts 0b110#3).hod := by decide

theorem witness_BadCommandWordRefused :
    configLegal (fresh 2 .stop).cfg = true ∧
      [0x40, 0, 0, 0] = be32 0x40000000 ∧ (0x40000000 : Word).extractLsb' 30 2 ≠ 0#2 ∧
      ([0, 0, 0] : List Byte).length ≠ 4 := by decide

/-- A held PUSH that stalls, and a PUSH that is accepted. -/
theorem witness_StepRunsTheDecodedInstruction :
    configLegal (at2 0 0 [] true).cfg = true ∧
      (decode (at2 0 0 [] true).cfg (.op (idlePorts 0b010#3))).toOption = some (.push 0 0 0) ∧
      after (.push 0 0 0) (at2 0 0 [] true) (fun t => staysOffered (.op (idlePorts 0b010#3)) t) = some true ∧
      after (.push 0 0 0) (at2 0 0 [] false) (fun t => staysOffered (.op (idlePorts 0b010#3)) t) = some false := by
  decide

/-- A coordinate one past its port, and one lane too few. -/
theorem witness_UnportableOperandsRefused :
    configLegal (fresh 2 .stop).cfg = true ∧ 2 ^ (fresh 2 .stop).cfg.coordWidth ≤ 256 ∧
      ([0] : List (BitVec 24)).length ≠ (fresh 2 .stop).cfg.canvasSide := by decide

theorem witness_IdleStepHoldsTheState :
    configLegal (at2 1 1 [0] false).cfg = true ∧ (at2 1 1 [0] false).inputs = [] := by decide

/-- The invariant holds of a block of side 2 with a partial row, so its hypotheses can be met away from reset. -/
theorem witness_inv (row : BitVec 6) (h : row.toNat < 2) (p : Pixel) :
    (at2 row 1 [encodePixel row.toNat 0 p] false).Inv where
  config := rfl
  row := h
  col := by simp [at2, fresh, cfgOf]
  bufLength := rfl
  bufWords := ⟨[p], rfl⟩
  ignoreNeverHalts := fun _ => rfl
  emissions := by simp [at2, fresh, State.reset]
  ports := rfl
  refusedMarked := by simp [at2, fresh, State.reset]
  framebuffer := rfl

/-- A step that answers a next state from a state that meets the invariant. -/
theorem witness_StepKeepsInvariant :
    (at2 1 1 [encodePixel 1 0 ⟨1, 2, 3⟩] false).Inv ∧
      step (at2 1 1 [encodePixel 1 0 ⟨1, 2, 3⟩] false) = .next (at2 1 1 [encodePixel 1 0 ⟨1, 2, 3⟩] false) ∧
      (at2 1 1 [encodePixel 1 0 ⟨1, 2, 3⟩] false).cfg.canvasSide - 1 ≤
        (at2 1 1 [encodePixel 1 0 ⟨1, 2, 3⟩] false).colCnt.toNat :=
  ⟨witness_inv 1 (by decide) _, rfl, by decide⟩

theorem witness_ConfigurationIsStatic :
    afterStep (State.reset.withFetchWord 8 0b100) (fun t => t.cfg.canvasSide) = some 64 := by decide

/-- From a state with the mark set, a step answers a next state; the reserved operation sets it. -/
theorem witness_RefusedMarkIsSticky :
    afterStep { fresh 2 .stop with refused := true, inputs := [.op (idlePorts 0b100#3)] } (·.refused) = some true ∧
      after .reserved (fresh 2 .stop) (·.refused) = some true := by decide

/-- A PUSH that leaves the row open and one that completes it. -/
theorem witness_OnlyCompletingPushEmits :
    (at2 0 0 [] false).colCnt.toNat < (at2 0 0 [] false).cfg.canvasSide ∧
      after (.push 0 0 0) (at2 0 0 [] false) (·.sinkLog.length) = some 0 ∧
      after (.push 0 0 0) (at2 0 1 [0] false) (·.sinkLog.length) = some 1 := by decide

/-- A completing PUSH as a step from a state that meets the invariant. -/
theorem witness_EveryEmissionIsACompleteRow :
    (at2 1 1 [encodePixel 1 0 ⟨1, 2, 3⟩] false).Inv ∧
      afterStep { at2 1 1 [encodePixel 1 0 ⟨1, 2, 3⟩] false with inputs := [.op (idlePorts 0b010#3)] }
        (fun t => t.sinkLog.map (·.payload.length)) = some [8] :=
  ⟨witness_inv 1 (by decide) _, by decide⟩

theorem witness_EmissionsAreNeverChanged :
    Host.Core.run Sys2Proof.core 1 (fresh 2 .stop) = .next (fresh 2 .stop) := rfl

/-- Each side of both clauses: halted and cleared, halted and kept, not halted. -/
theorem witness_HaltedSetByTransmitErrorClearedByReset :
    after (.reset 1) (at2 0 0 [] true) (·.halted) = some false ∧
      after .reserved (at2 0 0 [] true) (·.halted) = some true ∧
      after (.push 0 0 0) (at2 0 0 [] false) (·.halted) = some false := by decide

/-- Both answers under both policies at the last column. -/
theorem witness_TransmitErrorPolicies :
    configLegal (at2 1 1 [0] false).cfg = true ∧ (at2 1 1 [0] false).halted = false ∧
      (at2 1 1 [0] false).rowCnt.toNat < (at2 1 1 [0] false).cfg.canvasSide ∧
      (at2 1 1 [0] false).colCnt.toNat = (at2 1 1 [0] false).cfg.canvasSide - 1 ∧
      (pushPixel .err ⟨0, 0, 0⟩ (at2 1 1 [0] false)).halted = true ∧
      (pushPixel .ok ⟨0, 0, 0⟩ (at2 1 1 [0] false)).halted = false ∧
      (pushPixel .err ⟨0, 0, 0⟩ { at2 1 1 [0] false with cfg := cfgOf 2 .ignore }).halted = false := by decide

theorem witness_HaltedFramerIsFrozenUntilReset :
    (at2 1 1 [0] true).halted = true ∧
      ∀ i ∈ [Instr.push 1 2 3, .encode 0 0 0 0 0, .reserved], ∀ op : BitVec 2, i ≠ .reset op := by
  refine ⟨rfl, ?_⟩
  simp

theorem witness_StalledOfferMakesNoProgress :
    configLegal (at2 0 0 [] true).cfg = true ∧ (at2 0 0 [] true).halted = true ∧
      (idlePorts 0b010#3).hod = 0b010#3 ∧ (idlePorts 0b010#3).dropOnStall = false ∧
      ({ idlePorts 0b010#3 with dropOnStall := true } : Offer).dropOnStall = true := by decide

/-- Column 0 and column `N - 1`, halted and not. -/
theorem witness_PushAdvancesThePosition :
    configLegal (at2 1 1 [0] false).cfg = true ∧ (at2 1 1 [0] false).rowCnt.toNat < 2 ∧
      (at2 1 0 [] false).colCnt.toNat < (at2 1 0 [] false).cfg.canvasSide - 1 ∧
      (at2 1 1 [0] false).colCnt.toNat = (at2 1 1 [0] false).cfg.canvasSide - 1 ∧
      (at2 1 1 [0] true).halted = true := by decide

theorem witness_CanvasSideOnePush :
    (fresh 1 .stop).Inv ∧ (fresh 1 .stop).cfg.canvasSide = 1 ∧ (fresh 1 .stop).halted = false :=
  ⟨⟨by decide, by decide, by decide, rfl, ⟨[], rfl⟩, fun _ => rfl, by simp [fresh, State.reset], rfl,
    by simp [fresh, State.reset], rfl⟩, rfl, rfl⟩

/-- Three PUSHes of side 2 under `IGNORE` end with `halted` clear, whatever the sink answers. -/
theorem witness_PushStreamIsFramedInRasterOrder :
    configLegal (fresh 2 .ignore).cfg = true ∧
      (match execAll (.reset 0 :: List.replicate 3 (pushOf ⟨1, 2, 3⟩)) (fresh 2 .ignore) with
        | .next t => some (t.halted, t.rowCnt, t.colCnt, t.sinkLog.length)
        | _ => none) = some (false, 1, 1, 1) := by decide

/-- No PUSH at the last column, and one at column 0, both after a completed row; halted, too. -/
theorem witness_BrokenOffRowIsNeverEmitted :
    configLegal (at2 1 0 [] false).cfg = true ∧
      (at2 1 1 [0] false).colCnt.toNat + ([] : List Pixel).length < (at2 1 1 [0] false).cfg.canvasSide ∧
      (at2 1 0 [] true).colCnt.toNat + [(⟨1, 2, 3⟩ : Pixel)].length < (at2 1 0 [] true).cfg.canvasSide := by decide

theorem witness_PureOperationsAreIndependentOfTheFramer :
    (∃ row col r g b, Instr.encode 1 2 3 4 5 = .encode row col r g b) ∧
      ∃ row lanes, Instr.buildRow 1 [2] = .buildRow row lanes :=
  ⟨⟨_, _, _, _, _, rfl⟩, ⟨_, _, rfl⟩⟩

/-- A PUSH of an open row, and RESET, for which the hypothesis holds of itself. -/
theorem witness_PartialRowIsHidden :
    (∀ p : Pixel, Instr.push 1 2 3 = pushOf p → (at2 0 0 [] false).halted = false →
      (at2 0 0 [] false).colCnt.toNat < (at2 0 0 [] false).cfg.canvasSide - 1) ∧
    ∀ p : Pixel, Instr.reset 0 = pushOf p → (at2 0 1 [0] false).halted = false →
      (at2 0 1 [0] false).colCnt.toNat < (at2 0 1 [0] false).cfg.canvasSide - 1 :=
  ⟨fun _ _ _ => by decide, fun _ h => by simp [pushOf] at h⟩

theorem witness_ResponsePortsHoldOnlyWhatWasWritten :
    after (decodeOffer (idlePorts 0b000#3)) (fresh 2 .stop) (·.wordOut.isSome) = some true ∧
      after (decodeOffer (idlePorts 0b001#3)) (fresh 2 .stop) (·.payloadOut.isSome) = some true ∧
      after (decodeOffer (idlePorts 0b100#3)) (fresh 2 .stop) (·.wordOut.isSome) = some false := by decide

/-- One state for each of the four cases. -/
theorem witness_OutcomeByPriority :
    after (decodeOffer (idlePorts 0b111#3)) (at2 0 0 [] true) (·.outcome) = some .accepted ∧
      after (decodeOffer (idlePorts 0b011#3)) (at2 0 0 [] true) (·.outcome) = some (.refused .reservedOp) ∧
      after (decodeOffer (idlePorts 0b010#3)) (at2 0 0 [] true) (·.outcome) = some .stalled ∧
      after (decodeOffer (idlePorts 0b010#3)) (at2 0 0 [] false) (·.outcome) = some .accepted := by decide

/-- Column 1: position 0 below it, position 1 at it. -/
theorem witness_BufferReadsStopAtTheColumn :
    (at2 1 1 [encodePixel 1 0 ⟨1, 2, 3⟩] false).Inv ∧
      (at2 1 1 [encodePixel 1 0 ⟨1, 2, 3⟩] false).colCnt.toNat ≤ 1 ∧
      0 < (at2 1 1 [encodePixel 1 0 ⟨1, 2, 3⟩] false).colCnt.toNat :=
  ⟨witness_inv 1 (by decide) _, by decide, by decide⟩

/-- A coordinate at the widest value of its port and one past it; `N` pixels, and one fewer. -/
theorem witness_AssembledLinesAreWellFormed :
    assemble (cfgOf 2 .stop) (.encode 255 255 ⟨1, 2, 3⟩) = some [.encode 255 255 1 2 3] ∧
      assemble (cfgOf 2 .stop) (.encode 255 256 ⟨1, 2, 3⟩) = none ∧
      assemble (cfgOf 2 .stop) (.buildRow 1 [⟨255, 0, 0⟩, ⟨0, 0, 255⟩]) =
        some [.buildRow 1 [0xFF0000, 0x0000FF]] ∧
      assemble (cfgOf 2 .stop) (.buildRow 256 [⟨255, 0, 0⟩, ⟨0, 0, 255⟩]) = none ∧
      assemble (cfgOf 2 .stop) (.pushRow [⟨1, 2, 3⟩, ⟨4, 5, 6⟩]) = some [.push 1 2 3, .push 4 5 6] ∧
      assemble (cfgOf 2 .stop) (.pushRow [⟨1, 2, 3⟩]) = none ∧
      assemble (cfgOf 2 .stop) (.pushFill 0 ⟨1, 2, 3⟩) = some [] := by decide

/-- `PUSH 255, 0, 1` is a shown form; with 256 for a channel, or one operand fewer, it is none. -/
theorem witness_NotationLinesAreReadAsShown :
    parseTokens (lineTokens (.push ⟨255, 0, 1⟩)) = some [.push ⟨255, 0, 1⟩] ∧
      parseTokens [.word ['P', 'U', 'S', 'H'], .num 256, .comma, .num 0, .comma, .num 1] = none ∧
      parseTokens [.word ['P', 'U', 'S', 'H'], .num 255, .comma, .num 0] = none ∧
      parseTokens (lineTokens (.pushRow [])) = none ∧ parseTokens (lineTokens (.buildRow 1 [])) = none := by decide

/-- The greatest digits of both forms and cases, words, a run that is neither, and runs that end. -/
theorem witness_NotationTokens :
    wordToken ['9', '0'] = some (.num 90) ∧ wordToken ['0', 'x', 'F', 'f'] = some (.num 255) ∧
      wordToken ['P'] = some (.word ['P']) ∧ wordToken ['_', '9'] = some (.word ['_', '9']) ∧
      wordToken ['9', 'P'] = none ∧
      lexLine [] ['\t', 'P', ' ', '9', ',', '(', ';', 'x'] = some [.word ['P'], .num 9, .comma, .lpar] := by
  decide

/-- Lines that are read, two of them without an operation; one that is read and is an error, one not read. -/
theorem witness_NotationTextAssemblesLineByLine :
    [[], ['R', 'E', 'S', 'E', 'T'], [' ', ';', 'x']].map parseLine = [[], [AsmLine.reset], []].map some ∧
      assembleText (cfgOf 2 .stop) [[], ['R', 'E', 'S', 'E', 'T'], [' ', ';', 'x']] = some [.reset 0] ∧
      (parseLine ['E', 'N', 'C', 'O', 'D', 'E', ' ', '2', '5', '6', ',', '0', ',', '0', ',', '0', ',', '0'] =
          some [.encode 256 0 ⟨0, 0, 0⟩] ∧
        assemble (cfgOf 2 .stop) (.encode 256 0 ⟨0, 0, 0⟩) = none) ∧
      parseLine ['P', 'U', 'L', 'L'] = none := by decide

/-- Log 14: bytes left over after the last whole word are not dropped, and the decoder refuses them. -/
theorem test_datagram_left_over_bytes :
    datagramInputs [0x05, 0x25, 0x51, 0x0D, 0x05] = [.wire [0x05, 0x25, 0x51, 0x0D], .wire [0x05]] ∧
      refusalOf { fresh 2 .stop with inputs := datagramInputs [0x05] } = some (.undecodable .wireLength) := by
  decide

theorem witness_DeliveredRowIsDisplayed :
    configLegal (fresh 2 .stop).cfg = true ∧ (fresh 2 .stop).framebuffer.wf = true ∧
      1 < (fresh 2 .stop).cfg.canvasSide ∧
      [(⟨255, 0, 0⟩ : Pixel), ⟨0, 0, 255⟩].length = (fresh 2 .stop).cfg.canvasSide ∧
      datagramInputs (rowPayload 1 [⟨255, 0, 0⟩, ⟨0, 0, 255⟩]) =
        [.wire [0x01, 0x00, 0x0F, 0xC0], .wire [0x01, 0x07, 0xF0, 0x00]] := by decide

end Sys2Proof.Tests
end

section
/-! One step on the next input (00 R14): no instruction touches the queue of log 5, and what a step then does
with the input it served (60 R105; log 6). -/

namespace Sys2Proof.Machine

/-! ### The queue is left alone by every instruction -/

@[simp] theorem completeRow_inputs (answer : SinkResult) (w : Word) (s : State) :
    (completeRow answer w s).inputs = s.inputs := rfl

@[simp] theorem pushPixel_inputs (answer : SinkResult) (p : Pixel) (s : State) :
    (pushPixel answer p s).inputs = s.inputs := by
  rcases pushPixel_cases answer p s with ⟨_, h⟩ | ⟨_, h⟩ <;> simp [h]

/-- The queue belongs to the machine's step: the meaning of an instruction does not change it. -/
theorem exec_keeps_inputs {i : Instr} {s t : State} (h : exec i s = .next t) : t.inputs = s.inputs := by
  cases i with
  | push r g b =>
    rcases execPush_cases r g b s with ⟨_, hpush⟩ | ⟨_, hpush⟩
    all_goals
      obtain rfl := Host.Outcome.next.inj (hpush.symm.trans h)
      simp
  | _ =>
    obtain rfl := Host.Outcome.next.inj h
    rfl

/-! ### What becomes of the served input -/

/-- Only an offer stays, and only one that was stalled and is not withdrawn (60 R105; log 6). -/
theorem staysOffered_iff {x : Input} {t : State} :
    staysOffered x t = true ↔ ∃ o, x = .op o ∧ t.outcome = .stalled ∧ o.dropOnStall = false := by
  cases x with
  | op o => simp [staysOffered]
  | wire bytes => simp [staysOffered]

theorem retire_of_staysOffered {x : Input} {t : State} (h : staysOffered x t = true) : t.retire x = t := by
  rw [State.retire, if_pos h]

theorem retire_of_not_staysOffered {x : Input} {t : State} (h : staysOffered x t = false) :
    t.retire x = { t with inputs := t.inputs.tail } := by
  simp [State.retire, h]

/-- The step of a legal configuration on a decodable input: the instruction's own next state, with the input
retired. The converse of `step_next_cases`. -/
theorem step_of_decode {s t : State} {x : Input} {rest : List Input} {i : Instr} (hcfg : configLegal s.cfg = true)
    (hin : s.inputs = x :: rest) (hdec : decode s.cfg x = .ok i) (hexec : exec i s = .next t) :
    step s = .next (t.retire x) := by
  simp [step, hcfg, hin, hdec, hexec]

end Sys2Proof.Machine

namespace Sys2Proof.Proofs
open Sys2Proof.Machine

/-- Settles O27: the step is `exec` of the decoded instruction followed by `retire`, which keeps the queue that
`exec` left alone or drops its head. -/
theorem stepRunsTheDecodedInstruction : Obligations.StepRunsTheDecodedInstruction := by
  intro s t x rest i hcfg hin hdec hexec
  have hqueue : t.inputs = x :: rest := (exec_keeps_inputs hexec).trans hin
  have hstep : step s = .next (t.retire x) := step_of_decode hcfg hin hdec hexec
  refine ⟨hqueue, staysOffered_iff, fun hstays => ?_, fun hgoes => ?_⟩
  · rw [hstep, retire_of_staysOffered hstays]
  · rw [hstep, retire_of_not_staysOffered hgoes, hqueue, List.tail_cons]

end Sys2Proof.Proofs
end

section
/-! The invariant of 10 R29 (`State.Inv`): each operation on the state keeps it, so every meaning and
every step does. -/

namespace Sys2Proof.Machine

/-! ### The partial row as pixels -/

/-- The buffered words are those of exactly `col_cnt` pixels. -/
theorem State.Inv.pixels {s : State} (h : s.Inv) :
    ∃ px : List Pixel, px.length = s.colCnt.toNat ∧ s.buf = rowWords s.rowCnt.toNat 0 px := by
  obtain ⟨px, hbuf⟩ := h.bufWords
  refine ⟨px, ?_, hbuf⟩
  rw [← h.bufLength, hbuf, rowWords_length]

/-- The buffer with the word of one more pixel, at the framer's position (41 R85), is again a row's beginning. -/
theorem State.Inv.pixels_concat {s : State} (h : s.Inv) (p : Pixel) :
    ∃ px : List Pixel, px.length = s.colCnt.toNat + 1 ∧
      s.buf ++ [encodePixel s.rowCnt.toNat s.colCnt.toNat p] = rowWords s.rowCnt.toNat 0 px := by
  obtain ⟨px, hlen, hbuf⟩ := h.pixels
  refine ⟨px ++ [p], ?_, ?_⟩
  · rw [List.length_append, hlen, List.length_singleton]
  · rw [rowWords_concat, hbuf, hlen, Nat.zero_add]

theorem State.Inv.side_le {s : State} (h : s.Inv) : s.cfg.canvasSide ≤ 64 := by
  have hcfg := h.config
  simp only [configLegal, Bool.and_eq_true, decide_eq_true_eq] at hcfg
  omega

theorem State.Inv.side_pos {s : State} (h : s.Inv) : 0 < s.cfg.canvasSide := Nat.zero_lt_of_lt h.row

/-! ### The operations that leave the framer alone -/

/-- A response other than a refusal needs no mark, so any port values in step will do. -/
theorem respond_keeps_inv {s : State} (h : s.Inv) (o : OutcomePort) (ho : ∀ code, o ≠ .refused code)
    (w : Option Word) (p : Option (List Byte)) : (s.respond o w p).Inv :=
  { h with
    ports := rfl
    refusedMarked := fun code hcode => absurd hcode (ho code) }

theorem refuse_keeps_inv {s : State} (h : s.Inv) (code : EventCode) : (s.refuse code).Inv :=
  { h with
    ports := rfl
    refusedMarked := fun _ _ => rfl }

theorem latchWord_keeps_inv {s : State} (h : s.Inv) (r c : BitVec 6) (w : Word) : (s.latchWord r c w).Inv :=
  { h with framebuffer := latchWord_framebuffer_wf s r c w h.framebuffer }

theorem retire_keeps_inv {s : State} (h : s.Inv) (x : Input) : (s.retire x).Inv := { h with }

/-! ### The framer's moves -/

theorem clearFramer_keeps_inv {s : State} (h : s.Inv) : s.clearFramer.Inv :=
  { h with
    row := h.side_pos
    col := h.side_pos
    bufLength := rfl
    bufWords := ⟨[], rfl⟩
    ignoreNeverHalts := fun _ => rfl }

/-- While a column is left after it, a pixel's word extends the row. -/
theorem appendWord_keeps_inv {s : State} (h : s.Inv) (hopen : s.colCnt.toNat < s.cfg.canvasSide - 1) (p : Pixel) :
    (s.appendWord (encodePixel s.rowCnt.toNat s.colCnt.toNat p)).Inv := by
  obtain ⟨px, hlen, hbuf⟩ := h.pixels_concat p
  have hcol : (s.colCnt + 1).toNat = s.colCnt.toNat + 1 := by
    have hside := h.side_le
    bv_omega
  exact { h with
    col := by rw [State.appendWord_colCnt, State.appendWord_cfg, hcol]; omega
    bufLength := by rw [State.appendWord_buf, State.appendWord_colCnt, hbuf, rowWords_length, hlen, hcol]
    bufWords := ⟨px, hbuf⟩ }

theorem emit_keeps_inv {s : State} (h : s.Inv) {payload : List Byte} {row : BitVec 6} {last : Bool}
    {answer : SinkResult} (he : Emission.WellFormed s.cfg ⟨payload, row, last, answer⟩) :
    (s.emit payload row last answer).Inv :=
  { h with
    emissions := by
      intro e hmem
      rw [State.emit_sinkLog, List.mem_append, List.mem_singleton] at hmem
      rcases hmem with hold | rfl
      · exact h.emissions e hold
      · exact he }

/-- The next row's number is below `N ≤ 64`, so the six bits of `row_cnt` hold it. -/
theorem finishRow_keeps_inv {s : State} (h : s.Inv) : s.finishRow.Inv :=
  { h with
    row := by
      have hside := h.side_le
      have hmod := Nat.mod_lt (s.rowCnt.toNat + 1) h.side_pos
      rw [State.finishRow_rowCnt, State.finishRow_cfg, BitVec.toNat_ofNat, Nat.mod_eq_of_lt (by omega)]
      exact hmod
    col := h.side_pos
    bufLength := rfl
    bufWords := ⟨[], rfl⟩ }

/-- TransmitError halts under `STOP` alone (60 R103). -/
theorem takeTransmitError_keeps_inv {s : State} (h : s.Inv) (answer : SinkResult) :
    (s.takeTransmitError answer).Inv :=
  { h with
    ignoreNeverHalts := by
      intro hignore
      rw [State.takeTransmitError_cfg] at hignore
      simp [hignore, h.ignoreNeverHalts hignore] }

/-- What a PUSH at the last column emits is a complete row (41 R92). -/
theorem State.Inv.emission_wellFormed {s : State} (h : s.Inv) (hlast : s.cfg.canvasSide - 1 ≤ s.colCnt.toNat)
    (p : Pixel) (answer : SinkResult) :
    Emission.WellFormed s.cfg
      ⟨serializeWords (s.buf ++ [encodePixel s.rowCnt.toNat s.colCnt.toNat p]), s.rowCnt,
        decide (s.rowCnt.toNat = s.cfg.canvasSide - 1), answer⟩ := by
  obtain ⟨px, hlen, hbuf⟩ := h.pixels_concat p
  have hfull : px.length = s.cfg.canvasSide := by
    have hcol := h.col
    omega
  exact { row := h.row, last := rfl, payload := ⟨px, hfull, congrArg serializeWords hbuf⟩ }

theorem pushPixel_keeps_inv {s : State} (h : s.Inv) (answer : SinkResult) (p : Pixel) :
    (pushPixel answer p s).Inv := by
  rcases pushPixel_cases answer p s with ⟨hopen, hpush⟩ | ⟨hlast, hpush⟩
  · rw [hpush]
    exact appendWord_keeps_inv h hopen p
  · rw [hpush]
    have hemit := emit_keeps_inv h (h.emission_wellFormed hlast p answer)
    exact takeTransmitError_keeps_inv (finishRow_keeps_inv hemit) answer

/-! ### Every instruction -/

theorem exec_keeps_inv {i : Instr} {s t : State} (h : s.Inv) (hexec : exec i s = .next t) : t.Inv := by
  cases i with
  | reset op =>
    obtain rfl := Host.Outcome.next.inj hexec
    exact respond_keeps_inv (clearFramer_keeps_inv h) .accepted nofun _ _
  | encode row col r g b =>
    obtain rfl := Host.Outcome.next.inj hexec
    exact respond_keeps_inv h .accepted nofun _ _
  | buildRow row lanes =>
    obtain rfl := Host.Outcome.next.inj hexec
    exact respond_keeps_inv h .accepted nofun _ _
  | push r g b =>
    rcases execPush_cases r g b s with ⟨_, hpush⟩ | ⟨_, hpush⟩
    · obtain rfl := Host.Outcome.next.inj (hpush.symm.trans hexec)
      exact respond_keeps_inv h .stalled nofun _ _
    · obtain rfl := Host.Outcome.next.inj (hpush.symm.trans hexec)
      exact respond_keeps_inv (pushPixel_keeps_inv h _ _) .accepted nofun _ _
  | reserved =>
    obtain rfl := Host.Outcome.next.inj hexec
    exact refuse_keeps_inv h _
  | cw row col blueQ redQ greenQ =>
    obtain rfl := Host.Outcome.next.inj hexec
    exact latchWord_keeps_inv h _ _ _

end Sys2Proof.Machine

namespace Sys2Proof.Proofs
open Sys2Proof.Machine

/-- Settles O32: a step holds still, or performs one instruction and retires its input, each of which keeps the
invariant. -/
theorem stepKeepsInvariant : Obligations.StepKeepsInvariant := by
  intro s t h hstep
  obtain ⟨_, hidle | hserved⟩ := step_next_cases hstep
  · obtain ⟨_, rfl⟩ := hidle
    exact h
  · obtain ⟨x, _, i, u, _, _, hexec, rfl⟩ := hserved
    exact retire_keeps_inv (exec_keeps_inv h hexec) x

/-- Settles O31: nothing is buffered, emitted or latched, and the default configuration is legal under either
policy. -/
theorem resetStateMeetsInvariant : Obligations.ResetStateMeetsInvariant where
  config := rfl
  row := by decide
  col := by decide
  bufLength := rfl
  bufWords := ⟨[], rfl⟩
  ignoreNeverHalts := fun _ => rfl
  emissions := List.forall_mem_nil _
  ports := rfl
  refusedMarked := nofun
  framebuffer := reset_framebuffer_wf

end Sys2Proof.Proofs
end

section
/-! The view STATUS (10 R28), the positions of the row buffer (10 R24), and the state after reset (10 R32). -/

namespace Sys2Proof.Machine

/-! ### STATUS -/

/-- STATUS as a number: `HALTED` has the weight of bit 12 and `ROW` that of bit 6. -/
theorem statusWord_toNat (s : State) :
    (statusWord s).toNat = s.halted.toNat * 4096 + s.rowCnt.toNat * 64 + s.colCnt.toNat := by
  have hhalted := s.halted.toNat_lt
  have hrow := s.rowCnt.isLt
  have hcol := s.colCnt.isLt
  have happend : (BitVec.ofBool s.halted ++ s.rowCnt ++ s.colCnt).toNat =
      s.halted.toNat * 4096 + s.rowCnt.toNat * 64 + s.colCnt.toNat := by
    rw [BitVec.toNat_append, BitVec.toNat_append, BitVec.toNat_ofBool,
      ← Nat.shiftLeft_add_eq_or_of_lt hrow, ← Nat.shiftLeft_add_eq_or_of_lt hcol,
      Nat.shiftLeft_eq, Nat.shiftLeft_eq]
    omega
  rw [statusWord, BitVec.toNat_setWidth, happend, Nat.mod_eq_of_lt (by omega)]

/-- A bit field of STATUS as a number, so that each field of 10 R28 is a matter of arithmetic. -/
theorem statusWord_field_toNat (s : State) (start len : Nat) :
    ((statusWord s).extractLsb' start len).toNat =
      (s.halted.toNat * 4096 + s.rowCnt.toNat * 64 + s.colCnt.toNat) / 2 ^ start % 2 ^ len := by
  rw [BitVec.extractLsb'_toNat, statusWord_toNat, Nat.shiftRight_eq_div_pow]

theorem statusWord_col (s : State) : (statusWord s).extractLsb' 0 6 = s.colCnt := by
  have hcol := s.colCnt.isLt
  apply BitVec.eq_of_toNat_eq
  rw [statusWord_field_toNat]
  omega

theorem statusWord_row (s : State) : (statusWord s).extractLsb' 6 6 = s.rowCnt := by
  have hrow := s.rowCnt.isLt
  have hcol := s.colCnt.isLt
  apply BitVec.eq_of_toNat_eq
  rw [statusWord_field_toNat]
  omega

theorem statusWord_halted (s : State) : (statusWord s).extractLsb' 12 1 = BitVec.ofBool s.halted := by
  have hhalted := s.halted.toNat_lt
  have hrow := s.rowCnt.isLt
  have hcol := s.colCnt.isLt
  apply BitVec.eq_of_toNat_eq
  rw [statusWord_field_toNat, BitVec.toNat_ofBool]
  omega

theorem statusWord_high (s : State) : (statusWord s).extractLsb' 13 19 = 0#19 := by
  have hhalted := s.halted.toNat_lt
  have hrow := s.rowCnt.isLt
  have hcol := s.colCnt.isLt
  apply BitVec.eq_of_toNat_eq
  rw [statusWord_field_toNat, BitVec.toNat_ofNat]
  omega

/-- STATUS shows the two counters and `halted`, and depends on nothing else. -/
theorem statusWord_eq_iff (s s' : State) : statusWord s = statusWord s' ↔
    s.colCnt = s'.colCnt ∧ s.rowCnt = s'.rowCnt ∧ s.halted = s'.halted := by
  constructor
  · intro h
    refine ⟨?_, ?_, BitVec.ofBool_eq_iff_eq.mp ?_⟩
    · rw [← statusWord_col, h, statusWord_col]
    · rw [← statusWord_row, h, statusWord_row]
    · rw [← statusWord_halted, h, statusWord_halted]
  · rintro ⟨hcol, hrow, hhalted⟩
    rw [statusWord, statusWord, hcol, hrow, hhalted]

/-! ### The row buffer -/

theorem readBuf_of_le {s : State} {c : Nat} (hc : s.colCnt.toNat ≤ c) : readBuf s c = .error .bufPositionEmpty := by
  rw [readBuf, List.getElem?_take_eq_none hc]

theorem readBuf_of_lt {s : State} {c : Nat} {w : Word} (hc : c < s.colCnt.toNat) (hw : s.buf[c]? = some w) :
    readBuf s c = .ok w := by
  rw [readBuf, List.getElem?_take_of_lt hc, hw]

/-- Below the column stands the word of the row's pixel at that column. -/
theorem State.Inv.buf_getElem? {s : State} {c : Nat} (h : s.Inv) (hc : c < s.colCnt.toNat) :
    ∃ p : Pixel, s.buf[c]? = some (encodePixel s.rowCnt.toNat c p) := by
  obtain ⟨px, hlen, hbuf⟩ := h.pixels
  rw [← hlen] at hc
  refine ⟨px[c], ?_⟩
  rw [hbuf, rowWords_getElem?, List.getElem?_eq_getElem hc, Option.map_some, Nat.zero_add]

end Sys2Proof.Machine

namespace Sys2Proof.Proofs
open Sys2Proof.Machine

/-- Settles O18: each field by its own lemma, and from the three fields that two equal words come from equal
counters and `halted`. -/
theorem statusWordLayout : Obligations.StatusWordLayout := by
  refine ⟨fun s => ⟨statusWord_col s, statusWord_row s, ?_, statusWord_high s⟩, rfl, statusWord_eq_iff⟩
  rw [statusWord_halted]
  cases s.halted <;> rfl

/-- Settles O50: a read takes the words below the column, and the invariant says which words these are. -/
theorem bufferReadsStopAtTheColumn : Obligations.BufferReadsStopAtTheColumn := by
  intro s c h
  refine ⟨readBuf_of_le, fun hc => ?_⟩
  obtain ⟨p, hw⟩ := h.buf_getElem? hc
  exact ⟨_, p, hw, readBuf_of_lt hc hw, rfl⟩

/-- Settles O30: by evaluation of the one state after reset. -/
theorem resetStateValues : Obligations.ResetStateValues :=
  ⟨rfl, rfl, rfl, rfl, rfl, rfl, rfl, rfl, rfl, rfl, rfl, rfl, readBuf_of_le (Nat.le_refl 0)⟩

end Sys2Proof.Proofs
end

section
/-! What becomes of `halted` (10 R25), and that the words of a partial row are hidden (10 R30). -/

namespace Sys2Proof.Machine

/-! ### PUSH by the state of the framer -/

theorem exec_push_of_halted {s : State} (h : s.halted = true) (r g b : Byte) :
    exec (.push r g b) s = .next (s.respond .stalled none none) := by
  rcases execPush_cases r g b s with ⟨_, hpush⟩ | ⟨hrunning, _⟩
  · exact hpush
  · rw [h] at hrunning
    contradiction

theorem exec_push_of_running {s : State} (h : s.halted = false) (r g b : Byte) :
    exec (.push r g b) s =
      .next ((pushPixel (Config.sinkAnswer s.draws) ⟨r, g, b⟩ s).respond .accepted none none) := by
  rcases execPush_cases r g b s with ⟨hhalted, _⟩ | ⟨_, hpush⟩
  · rw [h] at hhalted
    contradiction
  · exact hpush

theorem exec_push_of_open {s : State} (h : s.halted = false) (hopen : s.colCnt.toNat < s.cfg.canvasSide - 1)
    (r g b : Byte) :
    exec (.push r g b) s =
      .next ((s.appendWord (encodePixel s.rowCnt.toNat s.colCnt.toNat ⟨r, g, b⟩)).respond .accepted none none) := by
  rw [exec_push_of_running h, pushPixel, if_pos hopen]

/-! ### The one flag -/

theorem completeRow_halted (answer : SinkResult) (w : Word) (s : State) :
    (completeRow answer w s).halted =
      if s.cfg.txErrPolicy = some .stop ∧ answer = .err then true else s.halted := rfl

/-- A PUSH sets `halted` only by completing a row under `STOP` with the answer `ERR` (60 R103). -/
theorem pushPixel_halted_iff {s : State} (h : s.halted = false) (answer : SinkResult) (p : Pixel) :
    (pushPixel answer p s).halted = true ↔
      s.cfg.canvasSide - 1 ≤ s.colCnt.toNat ∧ s.cfg.txErrPolicy = some .stop ∧ answer = .err := by
  rcases pushPixel_cases answer p s with ⟨hopen, hpush⟩ | ⟨hlast, hpush⟩
  · rw [hpush, State.appendWord_halted]
    exact iff_of_false (by simp [h]) fun ⟨hlast, _⟩ => absurd hlast (Nat.not_le_of_lt hopen)
  · rw [hpush, completeRow_halted]
    simp [h, hlast]

/-- Every instruction but RESET and PUSH leaves `halted` as it is. -/
theorem exec_keeps_halted {i : Instr} {s t : State} (hexec : exec i s = .next t) (hreset : ∀ op, i ≠ .reset op)
    (hpush : ∀ r g b, i ≠ .push r g b) : t.halted = s.halted := by
  cases i with
  | reset op => exact absurd rfl (hreset op)
  | push r g b => exact absurd rfl (hpush r g b)
  | _ =>
    obtain rfl := Host.Outcome.next.inj hexec
    rfl

end Sys2Proof.Machine

namespace Sys2Proof.Proofs
open Sys2Proof.Machine

/-- Settles O38, by the kind of instruction: RESET clears the flag, a PUSH of a running framer sets it only by
TransmitError, a stalled PUSH and every other instruction leave it as it is. -/
theorem haltedSetByTransmitErrorClearedByReset : Obligations.HaltedSetByTransmitErrorClearedByReset := by
  intro i s t hexec
  cases i with
  | reset op =>
    obtain rfl := Host.Outcome.next.inj hexec
    exact ⟨fun _ => by simp [pushOf], fun _ => by simp⟩
  | push r g b =>
    constructor
    · intro hrunning
      obtain rfl := Host.Outcome.next.inj ((exec_push_of_running hrunning r g b).symm.trans hexec)
      have hpixel : ∃ p : Pixel, Instr.push r g b = pushOf p := ⟨⟨r, g, b⟩, rfl⟩
      rw [State.respond_halted, pushPixel_halted_iff hrunning, and_iff_right hpixel]
    · intro hhalted
      obtain rfl := Host.Outcome.next.inj ((exec_push_of_halted hhalted r g b).symm.trans hexec)
      simp [hhalted]
  | _ =>
    have hkept : t.halted = s.halted := exec_keeps_halted hexec (fun _ => nofun) (fun _ _ _ => nofun)
    rw [hkept]
    exact ⟨fun hrunning => by simp [hrunning, pushOf], fun hhalted => by simp [hhalted]⟩

/-- Settles O47: what the hidden words become is nothing under RESET, themselves and the new word under a PUSH of
an open row, and themselves under every other instruction. -/
theorem partialRowIsHidden : Obligations.PartialRowIsHidden := by
  intro i s hidden hpartial
  cases i with
  | reset op => exact ⟨_, [], rfl, rfl, fun _ => rfl, rfl⟩
  | push r g b =>
    rcases Bool.eq_false_or_eq_true s.halted with hhalted | hrunning
    · exact ⟨_, hidden, exec_push_of_halted hhalted r g b,
        @exec_push_of_halted { s with buf := hidden } hhalted r g b, nofun, rfl⟩
    · have hopen := hpartial ⟨r, g, b⟩ rfl hrunning
      exact ⟨_, hidden ++ [_], exec_push_of_open hrunning hopen r g b,
        @exec_push_of_open { s with buf := hidden } hrunning hopen r g b, nofun, rfl⟩
  | _ => exact ⟨_, hidden, rfl, rfl, nofun, rfl⟩

end Sys2Proof.Proofs
end

section
/-! The bytes of a word on the wire (20 R37), where each word of a row payload stands (20 R40), and that a position
of the canvas has an address of its own (20 R45). -/

namespace Sys2Proof.Machine

/-! ### One word -/

theorem be32_getElem? (w : Word) {k : Nat} (hk : k < 4) : (be32 w)[k]? = some (w.extractLsb' (24 - 8 * k) 8) := by
  interval_cases k <;> rfl

/-- Each byte of four joined ones is cut out again. -/
theorem be32_append (b0 b1 b2 b3 : Byte) : be32 (b0 ++ b1 ++ b2 ++ b3) = [b0, b1, b2, b3] := by
  simp (disch := omega) [be32, BitVec.extractLsb'_append_eq_of_le, BitVec.extractLsb'_append_eq_of_add_le,
    -Nat.reduceAdd]

theorem be32_of_ofBe32 {bytes : List Byte} {w : Word} (h : ofBe32 bytes = some w) : bytes = be32 w := by
  unfold ofBe32 at h
  split at h
  next b0 b1 b2 b3 =>
    obtain rfl := Option.some.inj h
    exact (be32_append b0 b1 b2 b3).symm
  next => contradiction

theorem ofBe32_eq_some_iff {bytes : List Byte} {w : Word} : ofBe32 bytes = some w ↔ bytes = be32 w :=
  ⟨be32_of_ofBe32, fun h => h ▸ ofBe32_be32 w⟩

/-! ### The words of a payload -/

theorem serializeWords_cons (w : Word) (ws : List Word) : serializeWords (w :: ws) = be32 w ++ serializeWords ws :=
  rfl

/-- Four bytes stand for each word, so skipping `4c` bytes skips `c` words. -/
theorem serializeWords_drop (ws : List Word) (c : Nat) :
    (serializeWords ws).drop (4 * c) = serializeWords (ws.drop c) := by
  induction ws generalizing c with
  | nil => simp [serializeWords]
  | cons w ws ih =>
    cases c with
    | zero => rfl
    | succ c =>
      rw [serializeWords_cons, Nat.mul_succ, Nat.add_comm, ← List.drop_drop,
        List.drop_left' (be32_length w), ih, List.drop_succ_cons]

theorem serializeWords_word {ws : List Word} {c : Nat} {w : Word} (h : ws[c]? = some w) :
    ((serializeWords ws).drop (4 * c)).take 4 = be32 w := by
  obtain ⟨hc, rfl⟩ := List.getElem?_eq_some_iff.mp h
  rw [serializeWords_drop, List.drop_eq_getElem_cons hc, serializeWords_cons, List.take_left' (be32_length _)]

/-! ### Addresses -/

/-- The two halves of a pixel address name the row and the column (40 R69). -/
theorem pixelAddress_inj {row col row' col' : BitVec 6} :
    pixelAddress row col = pixelAddress row' col' ↔ row = row' ∧ col = col' := by
  constructor
  · intro h
    have hrow := congrArg (BitVec.extractLsb' 6 6) h
    have hcol := congrArg (BitVec.extractLsb' 0 6) h
    rw [pixelAddress, pixelAddress, BitVec.extractLsb'_append_eq_left, BitVec.extractLsb'_append_eq_left] at hrow
    rw [pixelAddress, pixelAddress, BitVec.extractLsb'_append_eq_right, BitVec.extractLsb'_append_eq_right] at hcol
    exact ⟨hrow, hcol⟩
  · rintro ⟨rfl, rfl⟩
    rfl

theorem pixelAddress_toNat_inj {row col row' col' : BitVec 6} :
    (pixelAddress row col).toNat = (pixelAddress row' col').toNat ↔ row = row' ∧ col = col' :=
  BitVec.toNat_inj.trans pixelAddress_inj

/-- Masking changes no coordinate of a canvas, whose side is at most 64. -/
theorem low6_toNat_of_lt {v : Nat} (hv : v < 64) : (low6 v).toNat = v := by
  rw [low6, BitVec.toNat_ofNat, Nat.mod_eq_of_lt hv]

theorem low6_inj_of_lt {v v' : Nat} (hv : v < 64) (hv' : v' < 64) (h : low6 v = low6 v') : v = v' := by
  rw [← low6_toNat_of_lt hv, h, low6_toNat_of_lt hv']

theorem side_le_of_configLegal {cfg : Config} (h : configLegal cfg = true) : cfg.canvasSide ≤ 64 := by
  simp only [configLegal, Bool.and_eq_true, decide_eq_true_eq] at h
  obtain ⟨⟨⟨_, hside⟩, _⟩, _⟩ := h
  exact hside

end Sys2Proof.Machine

namespace Sys2Proof.Proofs
open Sys2Proof.Machine

/-- Settles O8: byte by byte, and by the two directions of reading four bytes back. -/
theorem networkByteOrderIsABijection : Obligations.NetworkByteOrderIsABijection :=
  ⟨fun w _ hk => be32_getElem? w hk, be32_length, fun _ _ => ofBe32_eq_some_iff⟩

/-- Settles O9: the word at position `c` of the row is that of column `c`, and it is serialized at `4c`. -/
theorem rowPayloadLayout : Obligations.RowPayloadLayout := by
  intro row px
  refine ⟨rowPayload_length row px, fun c p hp => ?_⟩
  have hword : (rowWords row 0 px)[c]? = some (encodePixel row c p) := by
    rw [rowWords_getElem?, hp, Option.map_some, Nat.zero_add]
  exact serializeWords_word hword

/-- Settles O10: the address gives back both masked coordinates, and masking loses nothing of a coordinate below
`N ≤ 64`. -/
theorem canvasPositionsHaveDistinctAddresses : Obligations.CanvasPositionsHaveDistinctAddresses := by
  intro cfg r c r' c' hcfg hr hc hr' hc' haddr
  have hside := side_le_of_configLegal hcfg
  obtain ⟨hrow, hcol⟩ := pixelAddress_inj.mp haddr
  exact ⟨low6_inj_of_lt (by omega) (by omega) hrow, low6_inj_of_lt (by omega) (by omega) hcol⟩

end Sys2Proof.Proofs
end

section
/-! The receiver of 20 R36 (log 11): what one command word changes in it, and what the words of a whole row payload
do when they reach it one after another. -/

namespace Sys2Proof.Machine

/-! ### A command word is read back -/

section
variable (row col blueQ redQ greenQ : BitVec 6)

theorem composeFields_high : (composeFields row col blueQ redQ greenQ).extractLsb' 30 2 = 0#2 := by
  rw [composeFields, BitVec.setWidth_eq_append (by omega)]
  exact BitVec.extractLsb'_append_eq_left

/-- Zero extension adds nothing to a field inside the word. -/
theorem composeFields_extractLsb' {start len : Nat} (h : start + len ≤ 32) :
    (composeFields row col blueQ redQ greenQ).extractLsb' start len =
      (row ++ col ++ blueQ ++ redQ ++ greenQ).extractLsb' start len := by
  rw [composeFields, BitVec.extractLsb'_setWidth_of_le h]

/-- The receiver reads the five fields of a command word back (30 R65). -/
theorem decodeWord_composeFields :
    decodeWord (composeFields row col blueQ redQ greenQ) = .ok (.cw row col blueQ redQ greenQ) := by
  rw [decodeWord, if_pos (composeFields_high row col blueQ redQ greenQ)]
  simp (disch := omega) [composeFields_extractLsb', BitVec.extractLsb'_append_eq_of_le,
    BitVec.extractLsb'_append_eq_of_add_le, -Nat.reduceAdd]

theorem decode_wire_composeFields (cfg : Config) :
    decode cfg (.wire (be32 (composeFields row col blueQ redQ greenQ))) = .ok (.cw row col blueQ redQ greenQ) := by
  rw [decode, ofBe32_be32]
  exact decodeWord_composeFields row col blueQ redQ greenQ

end

/-! ### One latch -/

theorem onCanvas_iff {cfg : Config} {row col : BitVec 6} :
    onCanvas cfg row col = true ↔ row.toNat < cfg.canvasSide ∧ col.toNat < cfg.canvasSide := by
  rw [onCanvas, Bool.and_eq_true, decide_eq_true_eq, decide_eq_true_eq]

/-- On the canvas no free value is drawn: the word itself is put at its address. -/
theorem latchWord_of_onCanvas {s : State} {row col : BitVec 6} (h : onCanvas s.cfg row col = true) (w : Word) :
    s.latchWord row col w = { s with framebuffer := s.framebuffer.put (pixelAddress row col).toNat (some w) } := by
  simp [State.latchWord, h]

theorem readPixel_of_read_eq_some {s : State} {row col : BitVec 6} {w : Word}
    (h : s.framebuffer.read (pixelAddress row col).toNat = some w) : readPixel s row col = .ok w := by
  rw [readPixel, h]

/-- What is read at a position depends on its location alone. -/
theorem readPixel_congr {s t : State} {row col : BitVec 6}
    (h : t.framebuffer.read (pixelAddress row col).toNat = s.framebuffer.read (pixelAddress row col).toNat) :
    readPixel t row col = readPixel s row col := by
  rw [readPixel, h, readPixel]

theorem readPixel_latchWord_same {s : State} {row col : BitVec 6} (hmem : s.framebuffer.wf = true)
    (h : onCanvas s.cfg row col = true) (w : Word) : readPixel (s.latchWord row col w) row col = .ok w := by
  rw [latchWord_of_onCanvas h]
  exact readPixel_of_read_eq_some (Memory.read_put_same hmem)

theorem readPixel_latchWord_other (s : State) {row col r c : BitVec 6} (h : (r, c) ≠ (row, col)) (w : Word) :
    readPixel (s.latchWord row col w) r c = readPixel s r c := by
  apply readPixel_congr
  rw [State.latchWord_framebuffer]
  exact Memory.read_put_other fun haddr => h (Prod.ext_iff.mpr (pixelAddress_toNat_inj.mp haddr))

/-! ### The words of a row in the receiver's memory -/

/-- The receiver's memory after the words of a row's pixels from column `col` on are put in it, in order. -/
def Memory.putRow (row : Nat) : Nat → List Pixel → Memory → Memory
  | _, [], m => m
  | col, p :: ps, m =>
    Memory.putRow row (col + 1) ps
      (m.put (pixelAddress (low6 row) (low6 col)).toNat (some (encodePixel row col p)))

/-- A location that is no pixel's of the row keeps what it holds. -/
theorem Memory.read_putRow_other {row col a : Nat} {px : List Pixel} {m : Memory}
    (h : ∀ c < px.length, a ≠ (pixelAddress (low6 row) (low6 (col + c))).toNat) :
    (m.putRow row col px).read a = m.read a := by
  induction px generalizing col m with
  | nil => rfl
  | cons p ps ih =>
    have hhead : a ≠ (pixelAddress (low6 row) (low6 col)).toNat := h 0 (Nat.zero_lt_succ _)
    have htail : ∀ c < ps.length, a ≠ (pixelAddress (low6 row) (low6 (col + 1 + c))).toNat := fun c hc => by
      rw [Nat.add_assoc, Nat.add_comm 1]
      exact h (c + 1) (Nat.succ_lt_succ hc)
    rw [Memory.putRow, ih htail, Memory.read_put_other hhead]

/-- Each pixel's location holds its word: the words put after it go to other columns. -/
theorem Memory.read_putRow_at {row col c : Nat} {px : List Pixel} {p : Pixel} {m : Memory} (hm : m.wf = true)
    (hcols : col + px.length ≤ 64) (hp : px[c]? = some p) :
    (m.putRow row col px).read (pixelAddress (low6 row) (low6 (col + c))).toNat =
      some (encodePixel row (col + c) p) := by
  induction px generalizing col c m with
  | nil => contradiction
  | cons q qs ih =>
    rw [List.length_cons] at hcols
    rw [Memory.putRow]
    cases c with
    | zero =>
      obtain rfl : q = p := Option.some.inj hp
      have hlater : ∀ c < qs.length, (pixelAddress (low6 row) (low6 col)).toNat ≠
          (pixelAddress (low6 row) (low6 (col + 1 + c))).toNat := fun c hc heq => by
        have hcol := low6_inj_of_lt (by omega) (by omega) (pixelAddress_toNat_inj.mp heq).2
        omega
      rw [Nat.add_zero col, Memory.read_putRow_other hlater, Memory.read_put_same hm]
    | succ c =>
      have hcol : col + (c + 1) = col + 1 + c := by omega
      rw [hcol]
      exact ih (Memory.wf_put hm (pixelAddress _ _).isLt) (by omega) hp

/-! ### The words of a row reach the receiver -/

/-- A step on the wire bytes of a canvas pixel's word puts it at its address and takes it off the queue. -/
theorem step_of_wire_pixel {s : State} {row col : Nat} {p : Pixel} {rest : List Input}
    (hcfg : configLegal s.cfg = true) (hrow : row < s.cfg.canvasSide) (hcol : col < s.cfg.canvasSide)
    (hin : s.inputs = .wire (be32 (encodePixel row col p)) :: rest) :
    step s = .next
      { s with
        framebuffer := s.framebuffer.put (pixelAddress (low6 row) (low6 col)).toNat (some (encodePixel row col p))
        inputs := rest } := by
  have hside := side_le_of_configLegal hcfg
  have hcanvas : onCanvas s.cfg (low6 row) (low6 col) = true := by
    rw [onCanvas_iff, low6_toNat_of_lt (by omega), low6_toNat_of_lt (by omega)]
    exact ⟨hrow, hcol⟩
  have hdec := decode_wire_composeFields (low6 row) (low6 col) (q6 p.blue) (q6 p.red) (q6 p.green) s.cfg
  have hexec : exec (.cw (low6 row) (low6 col) (q6 p.blue) (q6 p.red) (q6 p.green)) s =
      .next (s.latchWord (low6 row) (low6 col) (encodePixel row col p)) := rfl
  rw [step_of_decode hcfg hin hdec hexec, retire_of_not_staysOffered rfl, latchWord_of_onCanvas hcanvas, hin,
    List.tail_cons]

/-- As many steps as the row has pixels left put their words in the receiver's memory and change nothing else. -/
theorem run_of_wire_row {s : State} {row col : Nat} {px : List Pixel} {rest : List Input}
    (hcfg : configLegal s.cfg = true) (hrow : row < s.cfg.canvasSide) (hcols : col + px.length ≤ s.cfg.canvasSide)
    (hin : s.inputs = datagramInputs (serializeWords (rowWords row col px)) ++ rest) :
    Host.Core.run Sys2Proof.core px.length s =
      .next { s with framebuffer := s.framebuffer.putRow row col px, inputs := rest } := by
  induction px generalizing col s with
  | nil =>
    obtain rfl : s.inputs = rest := hin
    rfl
  | cons p ps ih =>
    rw [List.length_cons] at hcols ⊢
    rw [rowWords, serializeWords_cons, datagramInputs_be32_append, List.cons_append] at hin
    rw [core_run_succ (step_of_wire_pixel hcfg hrow (by omega) hin)]
    exact ih hcfg hrow (by omega : col + 1 + ps.length ≤ s.cfg.canvasSide) rfl

end Sys2Proof.Machine

namespace Sys2Proof.Proofs
open Sys2Proof.Machine

/-- Settles O52: the run puts the row's words in the receiver's memory (`Memory.putRow`), where each is read at its
address and no address of another row is touched. -/
theorem deliveredRowIsDisplayed : Obligations.DeliveredRowIsDisplayed := by
  intro row px s rest hcfg hmem hrow hlen hin
  have hside := side_le_of_configLegal hcfg
  have hrun := run_of_wire_row hcfg hrow (by omega : 0 + px.length ≤ _) hin
  rw [hlen] at hrun
  refine ⟨_, hrun, rfl, fun c p hp => ?_, fun r c hr => ?_⟩
  · have hread := Memory.read_putRow_at (row := row) (col := 0) hmem (by omega) hp
    rw [Nat.zero_add] at hread
    exact readPixel_of_read_eq_some hread
  · apply readPixel_congr
    exact Memory.read_putRow_other fun _ _ haddr => hr (pixelAddress_toNat_inj.mp haddr).1

/-- Settles O16: on the canvas the latch draws nothing, and it writes the one location of its address. -/
theorem commandWordLatchedOnCanvas : Obligations.CommandWordLatchedOnCanvas := by
  intro row col blueQ redQ greenQ s hmem hrow hcol
  have hcanvas : onCanvas s.cfg row col = true := onCanvas_iff.mpr ⟨hrow, hcol⟩
  refine ⟨_, rfl, ?_, readPixel_latchWord_same hmem hcanvas _, fun r c hne => readPixel_latchWord_other s hne _⟩
  rw [latchWord_of_onCanvas hcanvas]

end Sys2Proof.Proofs
end

section
/-! Which operations emit (41 R86, R88). -/

namespace Sys2Proof.Machine

/-- A completed row is one emission, of the buffered words and the one that completes them (41 R88). -/
theorem completeRow_sinkLog (answer : SinkResult) (w : Word) (s : State) :
    (completeRow answer w s).sinkLog = s.sinkLog ++
      [⟨serializeWords (s.buf ++ [w]), s.rowCnt, decide (s.rowCnt.toNat = s.cfg.canvasSide - 1), answer⟩] := rfl

/-- Every instruction but PUSH leaves the record of emissions as it is. -/
theorem exec_keeps_sinkLog {i : Instr} {s t : State} (hexec : exec i s = .next t)
    (hpush : ∀ r g b, i ≠ .push r g b) : t.sinkLog = s.sinkLog := by
  cases i with
  | push r g b => exact absurd rfl (hpush r g b)
  | _ =>
    obtain rfl := Host.Outcome.next.inj hexec
    rfl

end Sys2Proof.Machine

namespace Sys2Proof.Proofs
open Sys2Proof.Machine

/-- Settles O35: a PUSH is stalled, leaves its row open, or completes it, which alone emits; no other instruction
does. -/
theorem onlyCompletingPushEmits : Obligations.OnlyCompletingPushEmits := by
  intro i s t hcol hexec
  cases i with
  | push r g b =>
    rcases Bool.eq_false_or_eq_true s.halted with hhalted | hrunning
    · obtain rfl := Host.Outcome.next.inj ((exec_push_of_halted hhalted r g b).symm.trans hexec)
      exact .inl ⟨rfl, fun ⟨_, _, hrunning, _⟩ => by simp [hhalted] at hrunning⟩
    · obtain rfl := Host.Outcome.next.inj ((exec_push_of_running hrunning r g b).symm.trans hexec)
      rw [State.respond_sinkLog]
      rcases pushPixel_cases (Config.sinkAnswer s.draws) ⟨r, g, b⟩ s with ⟨hopen, hpixel⟩ | ⟨hlast, hpixel⟩
      · rw [hpixel, State.appendWord_sinkLog]
        exact .inl ⟨rfl, fun ⟨_, _, _, hlast⟩ => by omega⟩
      · rw [hpixel, completeRow_sinkLog]
        exact .inr ⟨⟨r, g, b⟩, rfl, hrunning, by omega, _, rfl, rfl, decide_eq_true_iff, rfl⟩
  | _ => exact .inl ⟨exec_keeps_sinkLog hexec fun _ _ _ => nofun, fun ⟨_, hpush, _⟩ => nomatch hpush⟩

end Sys2Proof.Proofs
end

section
/-! The host descriptor (30 R57, R59): what each of its eight values decodes to, that the encoder of instructions and
the decoder undo each other, and the inputs that the decoder refuses (log 9, 14). -/

namespace Sys2Proof.Machine

/-! ### The operation map -/

/-- A descriptor has `RST = 1` or is one of the four of the encoder and the framer (30 R57). -/
theorem hod_cases (hod : BitVec 3) :
    hod.extractLsb' 2 1 = 1#1 ∨ hod = 0b000#3 ∨ hod = 0b001#3 ∨ hod = 0b010#3 ∨ hod = 0b011#3 := by
  decide +revert

section
variable {o : Offer}

theorem decodeOffer_of_rst (h : o.hod.extractLsb' 2 1 = 1#1) :
    decodeOffer o = .reset (o.hod.extractLsb' 0 2) := by
  rw [decodeOffer, if_pos h]

theorem decodeOffer_of_encode (h : o.hod = 0b000#3) :
    decodeOffer o = .encode o.rowIn o.colIn o.rIn o.gIn o.bIn := by
  simp [decodeOffer, h]

theorem decodeOffer_of_buildRow (h : o.hod = 0b001#3) : decodeOffer o = .buildRow o.rowIn o.pixIn := by
  simp [decodeOffer, h]

theorem decodeOffer_of_push (h : o.hod = 0b010#3) : decodeOffer o = .push o.rIn o.gIn o.bIn := by
  simp [decodeOffer, h]

theorem decodeOffer_of_reserved (h : o.hod = 0b011#3) : decodeOffer o = .reserved := by
  simp [decodeOffer, h]

end

/-- The row of the table that a descriptor belongs to is the one of the instruction read from it. -/
theorem covers_iff_mnemonic {r : HodRow} (hr : r ∈ hodTable) (o : Offer) :
    r.covers o.hod = true ↔ (decodeOffer o).mnemonic = r.mnemonic := by
  revert r
  rcases hod_cases o.hod with h | h | h | h | h
  · rw [decodeOffer_of_rst h, Instr.mnemonic]
    revert h
    generalize o.hod = hod
    decide +revert
  · rw [decodeOffer_of_encode h, h, Instr.mnemonic]
    decide
  · rw [decodeOffer_of_buildRow h, h, Instr.mnemonic]
    decide
  · rw [decodeOffer_of_push h, h, Instr.mnemonic]
    decide
  · rw [decodeOffer_of_reserved h, h, Instr.mnemonic]
    decide

/-! ### The decoder on an offer -/

theorem decode_op_of_wellFormed {cfg : Config} {o : Offer} (h : (decodeOffer o).WellFormed cfg) :
    decode cfg (.op o) = .ok (decodeOffer o) := by
  rw [decode, h]

theorem decode_op_of_defect {cfg : Config} {o : Offer} {e : DecodeError} (h : (decodeOffer o).defect cfg = some e) :
    decode cfg (.op o) = .error e := by
  rw [decode, h]

/-- The decoder sees of an offer what the operation map reads of it, and no more. -/
theorem decode_op_congr {o o' : Offer} (h : decodeOffer o = decodeOffer o') (cfg : Config) :
    decode cfg (.op o) = decode cfg (.op o') := by
  simp only [decode, h]

/-- The operation map reads back the descriptor and the ports that the encoder set. -/
theorem decodeOffer_of_encode_eq_op {i : Instr} {o : Offer} (h : encode i = .op o) : decodeOffer o = i := by
  cases i with
  | reset op =>
    obtain rfl := Input.op.inj h
    have hrst : (1#1 ++ op).extractLsb' 2 1 = 1#1 := BitVec.extractLsb'_append_eq_left
    have hop : (1#1 ++ op).extractLsb' 0 2 = op := BitVec.extractLsb'_append_eq_right
    rw [decodeOffer_of_rst hrst, idlePorts, hop]
  | encode row col r g b =>
    obtain rfl := Input.op.inj h
    exact decodeOffer_of_encode rfl
  | buildRow row lanes =>
    obtain rfl := Input.op.inj h
    exact decodeOffer_of_buildRow rfl
  | push r g b =>
    obtain rfl := Input.op.inj h
    exact decodeOffer_of_push rfl
  | reserved =>
    obtain rfl := Input.op.inj h
    exact decodeOffer_of_reserved rfl
  | cw => nomatch h

/-- What an offer is read as is encoded under the offer's own three bits. -/
theorem encode_decodeOffer (o : Offer) : ∃ o', encode (decodeOffer o) = .op o' ∧ o'.hod = o.hod := by
  rcases hod_cases o.hod with h | h | h | h | h
  · rw [decodeOffer_of_rst h]
    refine ⟨_, rfl, ?_⟩
    rw [idlePorts, ← h]
    exact BitVec.extractLsb'_append_extractLsb'
  · exact ⟨_, congrArg encode (decodeOffer_of_encode h), h.symm⟩
  · exact ⟨_, congrArg encode (decodeOffer_of_buildRow h), h.symm⟩
  · exact ⟨_, congrArg encode (decodeOffer_of_push h), h.symm⟩
  · exact ⟨_, congrArg encode (decodeOffer_of_reserved h), h.symm⟩

/-! ### The decoder on wire bytes -/

/-- A word whose two high bits are clear is the concatenation of its five fields (30 R52). -/
theorem composeFields_of_high_clear {w : Word} (h : w.extractLsb' 30 2 = 0#2) :
    composeFields (w.extractLsb' 24 6) (w.extractLsb' 18 6) (w.extractLsb' 12 6) (w.extractLsb' 6 6)
      (w.extractLsb' 0 6) = w := by
  have hfields : w.extractLsb' 24 6 ++ w.extractLsb' 18 6 ++ w.extractLsb' 12 6 ++ w.extractLsb' 6 6 ++
      w.extractLsb' 0 6 = w.extractLsb' 0 30 := by
    rw [BitVec.extractLsb'_append_extractLsb'_eq_extractLsb' (rfl : 24 = 18 + 6),
      BitVec.extractLsb'_append_extractLsb'_eq_extractLsb' (rfl : 18 = 12 + 6),
      BitVec.extractLsb'_append_extractLsb'_eq_extractLsb' (rfl : 12 = 6 + 6),
      BitVec.extractLsb'_append_extractLsb'_eq_extractLsb' (rfl : 6 = 0 + 6)]
  rw [composeFields, hfields, BitVec.setWidth_eq_append (by omega), ← h]
  exact BitVec.extractLsb'_append_extractLsb' (len := 30)

theorem decodeWord_of_high_set {w : Word} (h : w.extractLsb' 30 2 ≠ 0#2) :
    decodeWord w = .error .commandWordHighBits := by
  rw [decodeWord, if_neg h]

/-- What is read as a command word is well formed under every configuration, and its encoding is the bytes read. -/
theorem encode_of_decodeWord {w : Word} {i : Instr} (h : decodeWord w = .ok i) :
    (∀ cfg, i.WellFormed cfg) ∧ encode i = .wire (be32 w) := by
  by_cases hhigh : w.extractLsb' 30 2 = 0#2
  · rw [decodeWord, if_pos hhigh] at h
    obtain rfl := Except.ok.inj h
    exact ⟨fun _ => rfl, by rw [encode, composeFields_of_high_clear hhigh]⟩
  · rw [decodeWord_of_high_set hhigh] at h
    contradiction

theorem ofBe32_eq_none {bytes : List Byte} (h : bytes.length ≠ 4) : ofBe32 bytes = none := by
  rw [Option.eq_none_iff_forall_ne_some]
  intro w hw
  rw [be32_of_ofBe32 hw] at h
  exact h (be32_length w)

/-! ### Encoding and decoding -/

theorem decode_encode {cfg : Config} {i : Instr} (h : i.WellFormed cfg) : decode cfg (encode i) = .ok i := by
  cases hx : encode i with
  | op o =>
    obtain rfl := decodeOffer_of_encode_eq_op hx
    exact decode_op_of_wellFormed h
  | wire bytes =>
    cases i with
    | cw row col blueQ redQ greenQ =>
      obtain rfl := Input.wire.inj hx
      exact decode_wire_composeFields row col blueQ redQ greenQ cfg
    | _ => nomatch hx

/-- A step that meets an input the decoder refuses is refused with the decoder's reason. -/
theorem step_of_decode_error {s : State} {x : Input} {rest : List Input} {e : DecodeError}
    (hcfg : configLegal s.cfg = true) (hin : s.inputs = x :: rest) (hdec : decode s.cfg x = .error e) :
    step s = .refused (.undecodable e) := by
  simp [step, hcfg, hin, hdec]

end Sys2Proof.Machine

namespace Sys2Proof.Proofs
open Sys2Proof.Machine

/-- Settles O21: an offer is read back port by port, a command word field by field. -/
theorem decodeOfEncodeIsIdentity : Obligations.DecodeOfEncodeIsIdentity :=
  fun _ _ h => decode_encode h

/-- Settles O20: each value of `HOD` by its line of the map, and the rows of the table by the instruction read. -/
theorem descriptorMapIsTotal : Obligations.DescriptorMapIsTotal := by
  have rst {o : Offer} {hod : BitVec 3} (h : o.hod = hod) (hrst : hod.extractLsb' 2 1 = 1#1) :
      decodeOffer o = .reset (hod.extractLsb' 0 2) := by
    subst h
    exact decodeOffer_of_rst hrst
  refine ⟨fun o => ⟨decodeOffer_of_encode, decodeOffer_of_buildRow, decodeOffer_of_push, decodeOffer_of_reserved,
    fun h => rst h rfl, fun h => rst h rfl, fun h => rst h rfl, fun h => rst h rfl⟩, ?_⟩
  rintro _ r o hr rfl
  exact covers_iff_mnemonic hr o

/-- Settles O22: an accepted word is the one its fields compose, and an accepted offer is encoded under its own
descriptor and read back as the same instruction. -/
theorem encodeOfDecodeIsCanonical : Obligations.EncodeOfDecodeIsCanonical := by
  intro cfg x i hdec
  rcases decode_ok_cases hdec with ⟨o, rfl, rfl, hwf⟩ | ⟨bytes, w, rfl, hw, hword⟩
  · refine ⟨hwf, nofun, fun o₁ ho => ?_⟩
    obtain rfl := Input.op.inj ho
    obtain ⟨o', henc, hhod⟩ := encode_decodeOffer o
    refine ⟨o', henc, hhod, ?_⟩
    rw [← henc, decode_encode hwf, hdec]
  · obtain ⟨hwf, henc⟩ := encode_of_decodeWord hword
    refine ⟨hwf cfg, fun _ _ => ?_, nofun⟩
    rw [henc, be32_of_ofBe32 hw]

/-- Settles O23: the operation map reads from both offers the same instruction. -/
theorem unnamedPortsIgnored : Obligations.UnnamedPortsIgnored := by
  intro cfg o o' hhod hcoords hrow hchannels
  apply decode_op_congr
  rcases hod_cases o.hod with h | h | h | h | h
  · rw [decodeOffer_of_rst h, decodeOffer_of_rst (hhod ▸ h), hhod]
  · obtain ⟨hr, hg, hb⟩ := hchannels (.inl h)
    obtain ⟨hrowIn, hcolIn⟩ := hcoords h
    rw [decodeOffer_of_encode h, decodeOffer_of_encode (hhod ▸ h), hrowIn, hcolIn, hr, hg, hb]
  · obtain ⟨hrowIn, hpixIn⟩ := hrow h
    rw [decodeOffer_of_buildRow h, decodeOffer_of_buildRow (hhod ▸ h), hrowIn, hpixIn]
  · obtain ⟨hr, hg, hb⟩ := hchannels (.inr h)
    rw [decodeOffer_of_push h, decodeOffer_of_push (hhod ▸ h), hr, hg, hb]
  · rw [decodeOffer_of_reserved h, decodeOffer_of_reserved (hhod ▸ h)]

/-- Settles O26: other than four bytes are no word, and a word with a high bit set is no command word. -/
theorem badCommandWordRefused : Obligations.BadCommandWordRefused := by
  intro s bytes rest hcfg hin
  refine ⟨fun hlen => step_of_decode_error hcfg hin ?_, fun w hbytes hhigh => step_of_decode_error hcfg hin ?_⟩
  · rw [decode, ofBe32_eq_none hlen]
  · rw [decode, hbytes, ofBe32_be32]
    exact decodeWord_of_high_set hhigh

/-- Settles O28: the instruction read from such an offer has the named defect. -/
theorem unportableOperandsRefused : Obligations.UnportableOperandsRefused := by
  intro s o rest hcfg hin
  refine ⟨fun h hwide => ?_, fun h hwide => ?_, fun h hfits hlanes => ?_⟩
  all_goals apply step_of_decode_error hcfg hin; apply decode_op_of_defect
  · rw [decodeOffer_of_encode h]
    simp only [Instr.defect, coordinateFits, Bool.and_eq_true, decide_eq_true_eq]
    exact if_neg (by omega)
  · rw [decodeOffer_of_buildRow h]
    simp [Instr.defect, coordinateFits, hwide]
  · rw [decodeOffer_of_buildRow h]
    simp [Instr.defect, coordinateFits, hfits, hlanes]

/-- Settles O24: by evaluation of the words written out. -/
theorem sampleTableWordsDecode : Obligations.SampleTableWordsDecode := by
  unfold Obligations.SampleTableWordsDecode
  decide

end Sys2Proof.Proofs
end

section
/-! The bits of a pixel's word, as a word and as its four wire bytes (30 R52, R53, R55). -/

namespace Sys2Proof.Machine

/-! ### Bit fields -/

/-- A field of a field is a field of the word. -/
theorem extractLsb'_extractLsb' {w start len start' len' : Nat} (x : BitVec w) (h : start' + len' ≤ len) :
    (x.extractLsb' start len).extractLsb' start' len' = x.extractLsb' (start + start') len' := by
  ext k hk
  have hlen : start' + k < len := by omega
  simp [hlen, Nat.add_assoc]

/-- Where two words agree on a field, they agree on each part of it. -/
theorem extractLsb'_part_eq {v w start start' len : Nat} {x : BitVec v} {y : BitVec w}
    (h : x.extractLsb' start len = y.extractLsb' start' len) (k len' : Nat) (hk : k + len' ≤ len) :
    x.extractLsb' (start + k) len' = y.extractLsb' (start' + k) len' := by
  rw [← extractLsb'_extractLsb' x hk, h, extractLsb'_extractLsb' y hk]

/-- Two neighbouring fields side by side are one field. -/
theorem extractLsb'_eq_append {w start mid len₁ len₂ : Nat} {x : BitVec w} {hi : BitVec len₂} {lo : BitVec len₁}
    (hmid : mid = start + len₁) (hhi : x.extractLsb' mid len₂ = hi) (hlo : x.extractLsb' start len₁ = lo) :
    x.extractLsb' start (len₂ + len₁) = hi ++ lo := by
  rw [← hhi, ← hlo, BitVec.extractLsb'_append_extractLsb'_eq_extractLsb' hmid]

/-- The five fields of a command word stand where the receiver reads them (30 R65). -/
theorem composeFields_fields (row col blueQ redQ greenQ : BitVec 6) :
    (composeFields row col blueQ redQ greenQ).extractLsb' 24 6 = row ∧
    (composeFields row col blueQ redQ greenQ).extractLsb' 18 6 = col ∧
    (composeFields row col blueQ redQ greenQ).extractLsb' 12 6 = blueQ ∧
    (composeFields row col blueQ redQ greenQ).extractLsb' 6 6 = redQ ∧
    (composeFields row col blueQ redQ greenQ).extractLsb' 0 6 = greenQ := by
  have hread := decodeWord_composeFields row col blueQ redQ greenQ
  rw [decodeWord, if_pos (composeFields_high row col blueQ redQ greenQ)] at hread
  exact Instr.cw.inj (Except.ok.inj hread)

/-- The two coordinate fields stand side by side (30 R53). -/
theorem composeFields_address (row col blueQ redQ greenQ : BitVec 6) :
    (composeFields row col blueQ redQ greenQ).extractLsb' 18 12 = pixelAddress row col := by
  obtain ⟨hrow, hcol, _⟩ := composeFields_fields row col blueQ redQ greenQ
  exact extractLsb'_eq_append rfl hrow hcol

/-- A pixel address as a number (40 R69, R76). -/
theorem pixelAddress_low6_toNat (row col : Nat) :
    (pixelAddress (low6 row) (low6 col)).toNat = ((row &&& 0x3F) <<< 6) ||| (col &&& 0x3F) := by
  rw [pixelAddress, BitVec.toNat_append, low6, low6, BitVec.toNat_ofNat, BitVec.toNat_ofNat,
    Nat.and_two_pow_sub_one_eq_mod row 6, Nat.and_two_pow_sub_one_eq_mod col 6]

end Sys2Proof.Machine

namespace Sys2Proof.Proofs
open Sys2Proof.Machine

/-- Settles O2: the word composes exactly these fields. -/
theorem commandWordFieldLayout : Obligations.CommandWordFieldLayout :=
  fun _ _ _ => ⟨composeFields_high _ _ _ _ _, composeFields_fields _ _ _ _ _⟩

/-- Settles O3: the row and the column field side by side are the address. -/
theorem pixelAddressRoundTrip : Obligations.PixelAddressRoundTrip := by
  intro row col p
  have haddress : (encodePixel row col p).extractLsb' 18 12 = pixelAddress (low6 row) (low6 col) :=
    composeFields_address _ _ _ _ _
  exact ⟨haddress, haddress, haddress ▸ pixelAddress_low6_toNat row col⟩

/-- Settles O7: each byte is two neighbouring fields, or parts of them, joined. -/
theorem wireBytesOfPixel : Obligations.WireBytesOfPixel := by
  intro row col p
  obtain ⟨hhigh, hrow, hcol, hblue, hred, hgreen⟩ := commandWordFieldLayout row col p
  simp only [be32, List.cons.injEq, and_true]
  exact ⟨extractLsb'_eq_append (len₁ := 6) rfl hhigh hrow,
    extractLsb'_eq_append (len₁ := 2) rfl hcol (extractLsb'_part_eq hblue 4 2 (by omega)),
    extractLsb'_eq_append (len₁ := 4) rfl (extractLsb'_part_eq hblue 0 4 (by omega))
      (extractLsb'_part_eq hred 2 4 (by omega)),
    extractLsb'_eq_append (len₁ := 6) rfl (extractLsb'_part_eq hred 0 2 (by omega)) hgreen⟩

/-- Settles O25: the word's bytes decode to the fields it was composed of. -/
theorem commandWordInverseView : Obligations.CommandWordInverseView :=
  fun cfg _ _ _ => decode_wire_composeFields _ _ _ _ _ cfg

end Sys2Proof.Proofs
end

section
/-! What an operation of the block leaves on its response ports (30 R61; log 6, 7, 15). -/

namespace Sys2Proof.Machine

/-- Only the two pure operations and CW, which is no operation of the block, leave a value on the word, byte or
payload port: every other one answers on `outcome` alone. -/
theorem exec_writes_outcome_alone {i : Instr} {s t : State} (hexec : exec i s = .next t)
    (hencode : ∀ row col r g b, i ≠ .encode row col r g b) (hbuild : ∀ row lanes, i ≠ .buildRow row lanes)
    (hcw : ∀ row col blueQ redQ greenQ, i ≠ .cw row col blueQ redQ greenQ) :
    t.wordOut = none ∧ t.bytesOut = none ∧ t.payloadOut = none := by
  cases i with
  | encode row col r g b => exact absurd rfl (hencode row col r g b)
  | buildRow row lanes => exact absurd rfl (hbuild row lanes)
  | cw row col blueQ redQ greenQ => exact absurd rfl (hcw row col blueQ redQ greenQ)
  | push r g b =>
    rcases execPush_cases r g b s with ⟨_, hpush⟩ | ⟨_, hpush⟩
    all_goals
      obtain rfl := Host.Outcome.next.inj (hpush.symm.trans hexec)
      exact ⟨rfl, rfl, rfl⟩
  | _ =>
    obtain rfl := Host.Outcome.next.inj hexec
    exact ⟨rfl, rfl, rfl⟩

/-- Ports without a value are read as a fault (U3). -/
theorem ports_fault_of_none {t : State} (h : t.wordOut = none ∧ t.bytesOut = none ∧ t.payloadOut = none) :
    readWordOut t = .error .portHoldsNoValue ∧ readBytesOut t = .error .portHoldsNoValue ∧
      readPayloadOut t = .error .portHoldsNoValue := by
  obtain ⟨hword, hbytes, hpayload⟩ := h
  simp [readWordOut, readBytesOut, readPayloadOut, hword, hbytes, hpayload]

/-- An offer under another descriptor than those of ENCODE and BUILD_ROW leaves no value but `outcome`. -/
theorem exec_decodeOffer_ports_fault {o : Offer} {s t : State} (hexec : exec (decodeOffer o) s = .next t)
    (hencode : o.hod ≠ 0b000#3) (hbuild : o.hod ≠ 0b001#3) :
    readWordOut t = .error .portHoldsNoValue ∧ readBytesOut t = .error .portHoldsNoValue ∧
      readPayloadOut t = .error .portHoldsNoValue := by
  apply ports_fault_of_none
  rcases hod_cases o.hod with h | h | h | h | h
  · rw [decodeOffer_of_rst h] at hexec
    exact exec_writes_outcome_alone hexec nofun nofun nofun
  · exact absurd h hencode
  · exact absurd h hbuild
  · rw [decodeOffer_of_push h] at hexec
    exact exec_writes_outcome_alone hexec nofun nofun nofun
  · rw [decodeOffer_of_reserved h] at hexec
    exact exec_writes_outcome_alone hexec nofun nofun nofun

end Sys2Proof.Machine

namespace Sys2Proof.Proofs
open Sys2Proof.Machine

/-- Settles O48: ENCODE writes the word and its bytes, BUILD_ROW the payload, and every other operation of the block
none of the three. -/
theorem responsePortsHoldOnlyWhatWasWritten : Obligations.ResponsePortsHoldOnlyWhatWasWritten := by
  intro o s t hexec
  by_cases hencode : o.hod = 0b000#3
  · rw [decodeOffer_of_encode hencode] at hexec
    obtain rfl := Host.Outcome.next.inj hexec
    have hbuild : o.hod ≠ 0b001#3 := by rw [hencode]; decide
    exact ⟨fun _ => ⟨rfl, rfl⟩, fun h => absurd hencode h, fun h => absurd h hbuild, fun _ => rfl⟩
  by_cases hbuild : o.hod = 0b001#3
  · rw [decodeOffer_of_buildRow hbuild] at hexec
    obtain rfl := Host.Outcome.next.inj hexec
    exact ⟨fun h => absurd h hencode, fun _ => ⟨rfl, rfl⟩, fun _ => rfl, fun h => absurd hbuild h⟩
  · obtain ⟨hword, hbytes, hpayload⟩ := exec_decodeOffer_ports_fault hexec hencode hbuild
    exact ⟨fun h => absurd h hencode, fun _ => ⟨hword, hbytes⟩, fun h => absurd h hbuild, fun _ => hpayload⟩

end Sys2Proof.Proofs
end

section
/-! The assembly text of 30 R66 above its tokens: which operation the tokens of a line show, what an operation line
assembles to, and a text as the operations of its lines (log 23). -/

namespace Sys2Proof.Machine

/-! ### The shown forms -/

/-- A line that 30 R66 shows: the forms with triples have one or more of them. -/
def AsmLine.Shown (line : AsmLine) : Prop := line ≠ .pushRow [] ∧ ∀ row, line ≠ .buildRow row []

theorem AsmLine.not_shown_iff {line : AsmLine} :
    ¬ line.Shown ↔ line = .pushRow [] ∨ ∃ row, line = .buildRow row [] := by
  simp only [AsmLine.Shown, not_and_or, not_not, not_forall]

theorem channelTriple_toNat (p : Pixel) : channelTriple p.red.toNat p.green.toNat p.blue.toNat = some p :=
  channelTriple_eq_some.mpr ⟨rfl, rfl, rfl⟩

/-- The tokens that are read as triples are those of one or more pixels. -/
theorem parseTriples_eq_some_iff {ts : List AsmToken} {px : List Pixel} :
    parseTriples ts = some px ↔ px ≠ [] ∧ ts = tripleTokens px := by
  refine ⟨fun h => ?_, fun ⟨hne, hts⟩ => hts ▸ parseTriples_tripleTokens px hne⟩
  induction ts using parseTriples.induct generalizing px with
  | case1 r g b =>
    simp only [parseTriples, Option.map_eq_some_iff, channelTriple_eq_some] at h
    obtain ⟨p, ⟨rfl, rfl, rfl⟩, rfl⟩ := h
    exact ⟨List.cons_ne_nil _ _, rfl⟩
  | case2 r g b rest ih =>
    simp only [parseTriples, Option.bind_eq_some_iff, Option.map_eq_some_iff, channelTriple_eq_some] at h
    obtain ⟨p, ⟨rfl, rfl, rfl⟩, ps, hps, rfl⟩ := h
    obtain ⟨hne, rfl⟩ := ih hps
    obtain ⟨q, qs, rfl⟩ := List.exists_cons_of_ne_nil hne
    exact ⟨List.cons_ne_nil _ _, rfl⟩
  | case3 ts hone hmore =>
    rw [parseTriples.eq_3 ts hone hmore] at h
    contradiction

theorem parseTokens_lineTokens {line : AsmLine} (h : line.Shown) : parseTokens (lineTokens line) = some [line] := by
  obtain ⟨hpushRow, hbuildRow⟩ := h
  cases line with
  | reset => rfl
  | encode row col p => simp [lineTokens, channelTokens, parseTokens, channelTriple_toNat]
  | buildRow row px =>
    have hpx : px ≠ [] := fun hnil => hbuildRow row (hnil ▸ rfl)
    simp [lineTokens, parseTokens, parseTriples_tripleTokens px hpx]
  | push p => simp [lineTokens, channelTokens, parseTokens, channelTriple_toNat]
  | pushRow px =>
    have hpx : px ≠ [] := fun hnil => hpushRow (hnil ▸ rfl)
    simp [lineTokens, parseTokens, parseTriples_tripleTokens px hpx]
  | pushFill k p => simp [lineTokens, channelTokens, parseTokens, channelTriple_toNat]

/-- What the tokens of a line can be read as: nothing where there are none, or the one operation they show. -/
theorem parseTokens_eq_some_iff {ts : List AsmToken} {ls : List AsmLine} :
    parseTokens ts = some ls ↔ (ts = [] ∧ ls = []) ∨ ∃ line, ls = [line] ∧ ts = lineTokens line ∧ line.Shown := by
  constructor
  · intro h
    unfold parseTokens at h
    split at h
    all_goals simp only [Option.map_eq_some_iff, channelTriple_eq_some, parseTriples_eq_some_iff, Option.some.injEq,
      reduceCtorEq] at h
    case h_1 => exact .inl ⟨rfl, h.symm⟩
    case h_2 =>
      subst h
      exact .inr ⟨_, rfl, rfl, nofun, nofun⟩
    case h_4 =>
      obtain ⟨px, ⟨hpx, rfl⟩, rfl⟩ := h
      exact .inr ⟨_, rfl, rfl, nofun, by simpa using hpx⟩
    case h_6 =>
      obtain ⟨px, ⟨hpx, rfl⟩, rfl⟩ := h
      exact .inr ⟨_, rfl, rfl, by simpa using hpx, nofun⟩
    all_goals
      obtain ⟨p, ⟨rfl, rfl, rfl⟩, rfl⟩ := h
      exact .inr ⟨_, rfl, rfl, nofun, nofun⟩
  · rintro (⟨rfl, rfl⟩ | ⟨line, rfl, rfl, hshown⟩)
    · rfl
    · exact parseTokens_lineTokens hshown

/-! ### The operations of a line -/

theorem lanePixel_pixelLane (p : Pixel) : lanePixel (pixelLane p) = p := by
  simp (disch := omega) [lanePixel, pixelLane, BitVec.extractLsb'_append_eq_of_le,
    BitVec.extractLsb'_append_eq_of_add_le, -Nat.reduceAdd]

section
variable (cfg : Config)

theorem assemble_encode (row col : Nat) (p : Pixel) :
    assemble cfg (.encode row col p) =
      if row < 2 ^ cfg.coordWidth ∧ col < 2 ^ cfg.coordWidth then
        some [.encode row col p.red p.green p.blue] else none := by
  simp [assemble, coordinateFits]

theorem assemble_buildRow (row : Nat) (px : List Pixel) :
    assemble cfg (.buildRow row px) =
      if row < 2 ^ cfg.coordWidth ∧ px.length = cfg.canvasSide then
        some [.buildRow row (px.map pixelLane)] else none := by
  simp [assemble, coordinateFits]

theorem assemble_pushRow (px : List Pixel) :
    assemble cfg (.pushRow px) = if px.length = cfg.canvasSide then some (px.map pushOf) else none := rfl

end

theorem wellFormed_encode_iff {cfg : Config} {row col : Nat} {r g b : Byte} :
    (Instr.encode row col r g b).WellFormed cfg ↔ row < 2 ^ cfg.coordWidth ∧ col < 2 ^ cfg.coordWidth := by
  simp [Instr.WellFormed, Instr.defect, coordinateFits]

theorem wellFormed_buildRow_iff {cfg : Config} {row : Nat} {lanes : List (BitVec 24)} :
    (Instr.buildRow row lanes).WellFormed cfg ↔ row < 2 ^ cfg.coordWidth ∧ lanes.length = cfg.canvasSide := by
  by_cases hrow : row < 2 ^ cfg.coordWidth <;> simp [Instr.WellFormed, Instr.defect, coordinateFits, hrow]

/-- A well-formed operation of the block is read back from its own offer. -/
theorem offer_of_wellFormed {cfg : Config} {i : Instr} {o : Offer} {hod : BitVec 3} (h : i.WellFormed cfg)
    (henc : encode i = .op o) (hhod : o.hod = hod) :
    i.WellFormed cfg ∧ ∃ o, encode i = .op o ∧ decode cfg (.op o) = .ok i ∧ o.hod = hod :=
  ⟨h, o, henc, henc ▸ decode_encode h, hhod⟩

theorem offer_of_mem_pushes {cfg : Config} {px : List Pixel} {i : Instr} (h : i ∈ px.map pushOf) :
    i.WellFormed cfg ∧ ∃ o, encode i = .op o ∧ decode cfg (.op o) = .ok i ∧ o.hod = 0b010#3 := by
  obtain ⟨p, _, rfl⟩ := List.mem_map.mp h
  exact offer_of_wellFormed rfl rfl rfl

/-! ### A text -/

/-- A line holds no operation or one. -/
theorem parseLine_cases {line : List Char} {ls : List AsmLine} (h : parseLine line = some ls) :
    ls = [] ∨ ∃ op, ls = [op] := by
  obtain ⟨ts, _, hts⟩ := Option.bind_eq_some_iff.mp h
  rcases parseTokens_eq_some_iff.mp hts with ⟨_, rfl⟩ | ⟨op, rfl, _⟩
  · exact .inl rfl
  · exact .inr ⟨op, rfl⟩

theorem assembleLines_singleton (cfg : Config) (op : AsmLine) : assembleLines cfg [op] = assemble cfg op := by
  simp [assembleLines]

theorem assembleLines_append (cfg : Config) (ls ls' : List AsmLine) :
    assembleLines cfg (ls ++ ls') =
      (assembleLines cfg ls).bind fun is => (assembleLines cfg ls').map (is ++ ·) := by
  induction ls with
  | nil => simp [assembleLines]
  | cons l ls ih =>
    simp only [List.cons_append, assembleLines, ih]
    cases assemble cfg l <;> simp [Option.bind_map, Option.map_bind, Function.comp_def]

/-- A text whose lines are all read assembles as their operations in one sequence. -/
theorem assembleText_of_parsed (cfg : Config) {text : List (List Char)} {lines : List (List AsmLine)}
    (h : text.map parseLine = lines.map some) : assembleText cfg text = assembleLines cfg lines.flatten := by
  induction text generalizing lines with
  | nil =>
    obtain rfl := List.map_eq_nil_iff.mp h.symm
    rfl
  | cons line rest ih =>
    obtain ⟨ls, lines, rfl, hls, hlines⟩ := List.map_eq_cons_iff.mp h.symm
    rw [assembleText, ← hls, Option.bind_some, ih hlines.symm, List.flatten_cons, assembleLines_append]

/-- A line is an assembly error: it is no shown form, or its operation assembles to nothing. -/
def LineFails (cfg : Config) (line : List Char) : Prop :=
  parseLine line = none ∨ ∃ op, parseLine line = some [op] ∧ assemble cfg op = none

theorem assembleText_cons_eq_none_iff {cfg : Config} {line : List Char} {rest : List (List Char)} :
    assembleText cfg (line :: rest) = none ↔ LineFails cfg line ∨ assembleText cfg rest = none := by
  rw [assembleText, LineFails]
  cases hline : parseLine line with
  | none => simp
  | some ls =>
    rcases parseLine_cases hline with rfl | ⟨op, rfl⟩
    · simp [assembleLines]
    · rw [Option.bind_some, assembleLines_singleton]
      cases hop : assemble cfg op <;> simp [hop]

theorem assembleText_eq_none_iff {cfg : Config} {text : List (List Char)} :
    assembleText cfg text = none ↔ ∃ line ∈ text, LineFails cfg line := by
  induction text with
  | nil => simp [assembleText]
  | cons line rest ih => rw [assembleText_cons_eq_none_iff, ih, List.exists_mem_cons_iff]

end Sys2Proof.Machine

namespace Sys2Proof.Proofs
open Sys2Proof.Machine

/-- Settles O51: each line by its own equation, and each operation of it by decoding its encoding. -/
theorem assembledLinesAreWellFormed : Obligations.AssembledLinesAreWellFormed := by
  intro cfg line
  cases line with
  | reset =>
    refine ⟨rfl, fun is his i hi => ?_⟩
    obtain rfl := Option.some.inj his
    obtain rfl := List.mem_singleton.mp hi
    exact offer_of_wellFormed rfl rfl rfl
  | encode row col p =>
    simp only [assemble_encode]
    refine ⟨⟨fun hrow hcol => if_pos ⟨hrow, hcol⟩, by simp only [ite_eq_right_iff, reduceCtorEq, imp_false]; omega⟩,
      fun is his i hi => ?_⟩
    obtain ⟨hfits, his⟩ := Option.ite_none_right_eq_some.mp his
    obtain rfl := Option.some.inj his
    obtain rfl := List.mem_singleton.mp hi
    exact offer_of_wellFormed (wellFormed_encode_iff.mpr hfits) rfl rfl
  | buildRow row px =>
    have hlanes : (px.map pixelLane).map lanePixel = px := by simp [Function.comp_def, lanePixel_pixelLane]
    simp only [assemble_buildRow]
    refine ⟨⟨fun hrow hlen => ⟨_, if_pos ⟨hrow, hlen⟩, hlanes⟩,
      by simp only [ite_eq_right_iff, reduceCtorEq, imp_false]; omega⟩, fun is his i hi => ?_⟩
    obtain ⟨⟨hrow, hlen⟩, his⟩ := Option.ite_none_right_eq_some.mp his
    obtain rfl := Option.some.inj his
    obtain rfl := List.mem_singleton.mp hi
    exact offer_of_wellFormed (wellFormed_buildRow_iff.mpr ⟨hrow, (List.length_map _).trans hlen⟩) rfl rfl
  | push p =>
    refine ⟨rfl, fun is his i hi => ?_⟩
    obtain rfl := Option.some.inj his
    exact offer_of_mem_pushes (px := [p]) hi
  | pushRow px =>
    simp only [assemble_pushRow]
    refine ⟨⟨fun hlen => if_pos hlen, by simp⟩, fun is his i hi => ?_⟩
    obtain ⟨_, his⟩ := Option.ite_none_right_eq_some.mp his
    obtain rfl := Option.some.inj his
    exact offer_of_mem_pushes hi
  | pushFill k p =>
    refine ⟨rfl, fun is his i hi => ?_⟩
    obtain rfl := Option.some.inj his
    rw [← List.map_replicate] at hi
    exact offer_of_mem_pushes hi

/-- Settles O53: the reading of tokens is inverted once (`parseTokens_eq_some_iff`), and an error is what is not
read. -/
theorem notationLinesAreReadAsShown : Obligations.NotationLinesAreReadAsShown := by
  refine ⟨rfl, fun ts line => ?_, fun ts => ?_⟩
  · rw [parseTokens_eq_some_iff]
    simp [AsmLine.Shown]
  · rw [Option.eq_none_iff_forall_ne_some]
    simp only [Ne, parseTokens_eq_some_iff, ← AsmLine.not_shown_iff]
    constructor
    · intro hnone
      exact ⟨fun hnil => hnone [] (.inl ⟨hnil, rfl⟩),
        fun line hts hshown => hnone [line] (.inr ⟨line, rfl, hts, hshown⟩)⟩
    · rintro ⟨hne, hnot⟩ ls (⟨hnil, _⟩ | ⟨line, _, hts, hshown⟩)
      · exact hne hnil
      · exact hnot line hts hshown

/-- Settles O55, by induction on the lines of the text in both clauses. -/
theorem notationTextAssemblesLineByLine : Obligations.NotationTextAssemblesLineByLine := by
  intro cfg text
  refine ⟨fun lines h => ?_, assembleText_eq_none_iff⟩
  rw [assembleText_of_parsed cfg h, assembleLines_eq_mapM]

end Sys2Proof.Proofs
end

section
/-! How a line of assembly text is cut into tokens (30 R66; log 23): the digits of a number, the kind of a run, and the
characters that end a run. -/

namespace Sys2Proof.Machine

/-! ### Digits -/

theorem digitValue_decimal : ∀ d < 10, digitValue 10 (Char.ofNat ('0'.toNat + d)) = some d := by decide

theorem digitValue_hex : ∀ d < 16, ∀ upper : Bool,
    digitValue 16 (Char.ofNat (if d < 10 then '0'.toNat + d else (if upper then 'A' else 'a').toNat + (d - 10))) =
      some d := by decide

theorem digitValue_ten_isSome {c : Char} (h : '0'.toNat ≤ c.toNat ∧ c.toNat ≤ '9'.toNat) :
    (digitValue 10 c).isSome = true := by
  have hzero : '0'.toNat = 48 := rfl
  have hnine : '9'.toNat = 57 := rfl
  have hlt : c.toNat - '0'.toNat < 10 := by omega
  simp only [digitValue, if_pos h, if_pos hlt, Option.isSome_some]

/-- Digits continue a number as its positional value says. -/
theorem readDigits_map {α : Type} {base : Nat} {char : α → Char} {value : α → Nat} {digits : List α}
    (h : ∀ d ∈ digits, digitValue base (char d) = some (value d)) (acc : Nat) :
    readDigits base acc (digits.map char) = some (digits.foldl (fun n d => base * n + value d) acc) := by
  induction digits generalizing acc with
  | nil => rfl
  | cons d ds ih =>
    obtain ⟨hd, hds⟩ := List.forall_mem_cons.mp h
    rw [List.map_cons, readDigits, hd, Option.bind_some, ih hds, List.foldl_cons, Nat.mul_comm acc]

/-! ### The kind of a run -/

theorem wordToken_of_decimal {cs : List Char} (hne : cs ≠ []) (h : ∀ c ∈ cs, (digitValue 10 c).isSome = true) :
    wordToken cs = (readDigits 10 0 cs).map .num := by
  obtain ⟨c, cs, rfl⟩ := List.exists_cons_of_ne_nil hne
  have hnotHex : ∀ c' cs', c = '0' → cs = 'x' :: c' :: cs' → False := by
    rintro c' cs' - rfl
    have hx := h 'x' (by simp)
    revert hx
    decide
  rw [wordToken.eq_2 c cs hnotHex, if_pos (h c List.mem_cons_self)]

theorem wordToken_of_hex {cs : List Char} (hne : cs ≠ []) :
    wordToken ('0' :: 'x' :: cs) = (readDigits 16 0 cs).map .num := by
  obtain ⟨c, cs, rfl⟩ := List.exists_cons_of_ne_nil hne
  rfl

theorem wordToken_of_no_digit {c : Char} (h : digitValue 10 c = none) (cs : List Char) :
    wordToken (c :: cs) = some (.word (c :: cs)) := by
  have hnotHex : ∀ c' cs', c = '0' → cs = 'x' :: c' :: cs' → False := by
    rintro _ _ rfl
    exact absurd h (by decide)
  rw [wordToken.eq_2 c cs hnotHex, h]
  rfl

/-- A run that begins with a digit is a number or an error. -/
theorem wordToken_of_digit {c : Char} (h : (digitValue 10 c).isSome = true) (cs : List Char) :
    wordToken (c :: cs) = none ∨ ∃ n, wordToken (c :: cs) = some (.num n) := by
  have number (v : Option Nat) : v.map AsmToken.num = none ∨ ∃ n, v.map AsmToken.num = some (.num n) := by
    cases v with
    | none => exact .inl rfl
    | some n => exact .inr ⟨n, rfl⟩
  by_cases hhex : ∃ c' cs', c = '0' ∧ cs = 'x' :: c' :: cs'
  · obtain ⟨c', cs', rfl, rfl⟩ := hhex
    exact number _
  · rw [wordToken.eq_2 c cs fun c' cs' hc hcs => hhex ⟨c', cs', hc, hcs⟩, if_pos h]
    exact number _

/-! ### Where a run ends -/

/-- The characters that stand between runs and do not end the line. -/
def separators : List Char := [' ', '\t', ',', '(', ')']

/-- The token a separator is itself, where it is one. -/
def separatorTokens (c : Char) : List AsmToken :=
  if c = ',' then [.comma] else if c = '(' then [.lpar] else if c = ')' then [.rpar] else []

/-- The token of the run read so far, last character first: none where there is no run. -/
def runTokens (cur : List Char) : Option (List AsmToken) :=
  if cur.isEmpty then some [] else (wordToken cur.reverse).map fun t => [t]

theorem runTokens_of_wordToken {run : List Char} {token : AsmToken} (h : wordToken run = some token) :
    runTokens run.reverse = some [token] := by
  cases run with
  | nil => contradiction
  | cons c cs => simp [runTokens, h]

theorem lexLine_nil (cur : List Char) : lexLine cur [] = runTokens cur := rfl

theorem lexLine_semicolon (cur cs : List Char) : lexLine cur (';' :: cs) = runTokens cur := rfl

/-- A separator ends the run and stands for its own token. -/
theorem lexLine_separator {c : Char} (hc : c ∈ separators) (cur cs : List Char) :
    lexLine cur (c :: cs) =
      (runTokens cur).bind fun run => (lexLine [] cs).map fun ts => run ++ (separatorTokens c ++ ts) := by
  simp only [separators, List.mem_cons, List.not_mem_nil, or_false] at hc
  rcases hc with rfl | rfl | rfl | rfl | rfl <;> rfl

theorem lexLine_separator_nil {c : Char} (hc : c ∈ separators) (cs : List Char) :
    lexLine [] (c :: cs) = (lexLine [] cs).map (separatorTokens c ++ ·) := lexLine_separator hc [] cs

/-- Every other character continues the run. -/
theorem lexLine_other {c : Char} (hsemicolon : c ≠ ';') (hc : c ∉ separators) (cur cs : List Char) :
    lexLine cur (c :: cs) = lexLine (c :: cur) cs := by
  simp only [separators, List.mem_cons, List.not_mem_nil, or_false, not_or] at hc
  obtain ⟨hblank, htab, hcomma, hlpar, hrpar⟩ := hc
  simp [lexLine, hsemicolon, hblank, htab, hcomma, hlpar, hrpar]

theorem lexLine_run {run : List Char} (h : ∀ c ∈ run, c ≠ ';' ∧ c ∉ separators) (cur rest : List Char) :
    lexLine cur (run ++ rest) = lexLine (run.reverse ++ cur) rest := by
  induction run generalizing cur with
  | nil => rfl
  | cons c cs ih =>
    obtain ⟨⟨hsemicolon, hc⟩, hcs⟩ := List.forall_mem_cons.mp h
    rw [List.cons_append, lexLine_other hsemicolon hc, ih hcs, List.reverse_cons, List.append_assoc]
    rfl

/-- A comment changes nothing of the line before it. -/
theorem lexLine_comment {line : List Char} (h : ';' ∉ line) (cur comment : List Char) :
    lexLine cur (line ++ ';' :: comment) = lexLine cur line := by
  induction line generalizing cur with
  | nil => rw [List.nil_append, lexLine_semicolon, lexLine_nil]
  | cons c cs ih =>
    have hc : c ≠ ';' := Ne.symm (List.ne_of_not_mem_cons h)
    have hcs : ';' ∉ cs := List.not_mem_of_not_mem_cons h
    rw [List.cons_append]
    by_cases hsep : c ∈ separators
    · rw [lexLine_separator hsep, lexLine_separator hsep, ih hcs]
    · rw [lexLine_other hc hsep, lexLine_other hc hsep, ih hcs]

end Sys2Proof.Machine

namespace Sys2Proof.Proofs
open Sys2Proof.Machine

/-- Settles O54: numbers by their digits, the other runs by their first character, and a line by what each character
does to the run read so far. -/
theorem notationTokens : Obligations.NotationTokens := by
  refine ⟨fun digits hne hdigits => ?_, fun digits hne hdigits => ?_, fun c cs => ⟨fun hc => ?_, fun hc => ?_⟩,
    fun line comment hline => ?_, fun rest => ?_, fun run rest token hrun htoken => ⟨?_, fun c hc => ?_⟩⟩
  · have hvalue : ∀ d ∈ digits, digitValue 10 (Char.ofNat ('0'.toNat + d)) = some d :=
      fun d hd => digitValue_decimal d (hdigits d hd)
    rw [wordToken_of_decimal (by simpa using hne) (by simpa using fun d hd => hvalue d hd ▸ rfl),
      readDigits_map hvalue, Option.map_some]
  · rw [wordToken_of_hex (by simpa using hne),
      readDigits_map (value := Prod.fst) fun d hd => digitValue_hex d.1 (hdigits d hd) d.2, Option.map_some]
  · exact wordToken_of_no_digit (digitValue_ten_eq_none hc) cs
  · exact wordToken_of_digit (digitValue_ten_isSome hc) cs
  · rw [parseLine, lexLine_comment hline, parseLine]
  · have blank {c : Char} (hc : c ∈ separators) (hnone : separatorTokens c = []) :
        lexLine [] (c :: rest) = lexLine [] rest := by
      simp [lexLine_separator_nil hc, hnone]
    exact ⟨blank (by decide) rfl, blank (by decide) rfl, lexLine_separator_nil (by decide) rest,
      lexLine_separator_nil (by decide) rest, lexLine_separator_nil (by decide) rest⟩
  all_goals
    have hplain : ∀ c ∈ run, c ≠ ';' ∧ c ∉ separators := fun c hc =>
      ⟨List.ne_of_not_mem_cons (hrun c hc), List.not_mem_of_not_mem_cons (hrun c hc)⟩
    have htokens : runTokens run.reverse = some [token] := runTokens_of_wordToken htoken
  · have hread := lexLine_run hplain [] []
    rwa [List.append_nil, List.append_nil, lexLine_nil, htokens] at hread
  · rw [lexLine_run hplain, List.append_nil, lexLine_separator hc, htokens, lexLine_separator_nil hc,
      Option.map_map]
    rfl

end Sys2Proof.Proofs
end

section
/-! The word of a pixel as a function of its operands (40 R67 to R79): the values of its fields, the three ways of
composing them, which operands share a word, and which words there are. -/

namespace Sys2Proof.Machine

/-! ### The used bits of the operands -/

/-- Masking is reduction mod 64 (40 R68). -/
theorem low6_toNat (v : Nat) : (low6 v).toNat = v % 64 := BitVec.toNat_ofNat v 6

/-- Quantization drops the two low bits of a channel (40 R70). -/
theorem q6_toNat (v : Byte) : (q6 v).toNat = v.toNat / 4 := by
  have hv := v.isLt
  rw [q6, BitVec.extractLsb'_toNat, Nat.shiftRight_eq_div_pow]
  omega

theorem low6_eq_iff {v v' : Nat} : low6 v = low6 v' ↔ v % 64 = v' % 64 := by
  rw [← BitVec.toNat_inj, low6_toNat, low6_toNat]

theorem q6_eq_iff {v v' : Byte} : q6 v = q6 v' ↔ v.toNat / 4 = v'.toNat / 4 := by
  rw [← BitVec.toNat_inj, q6_toNat, q6_toNat]

/-- Every six-bit coordinate is the mask of itself. -/
theorem low6_of_toNat (v : BitVec 6) : low6 v.toNat = v :=
  BitVec.eq_of_toNat_eq (low6_toNat_of_lt v.isLt)

/-- Every six-bit value is the quantization of a channel. -/
theorem q6_append_zero (q : BitVec 6) : q6 (q ++ 0#2) = q := BitVec.extractLsb'_append_eq_left

/-! ### Composing the five fields -/

theorem append_toNat {m n : Nat} (x : BitVec m) (y : BitVec n) : (x ++ y).toNat = x.toNat * 2 ^ n + y.toNat := by
  rw [BitVec.toNat_append, ← Nat.shiftLeft_add_eq_or_of_lt y.isLt, Nat.shiftLeft_eq]

section
variable (row col blueQ redQ greenQ : BitVec 6)

/-- The fields do not overlap, so a command word is their weighted sum (40 R72). -/
theorem composeFields_toNat :
    (composeFields row col blueQ redQ greenQ).toNat =
      row.toNat * 2 ^ 24 + col.toNat * 2 ^ 18 + blueQ.toNat * 2 ^ 12 + redQ.toNat * 2 ^ 6 + greenQ.toNat := by
  rw [composeFields, BitVec.toNat_setWidth_of_le (by omega)]
  simp only [append_toNat]
  omega

/-- A command word is its fields, each shifted to its place, joined by or (40 R72). -/
theorem composeFields_eq_or :
    composeFields row col blueQ redQ greenQ =
      row.setWidth 32 <<< 24 ||| col.setWidth 32 <<< 18 ||| blueQ.setWidth 32 <<< 12 ||| redQ.setWidth 32 <<< 6 |||
        greenQ.setWidth 32 := by
  rw [composeFields, BitVec.setWidth_append_eq_shiftLeft_setWidth_or,
    BitVec.setWidth_append_append_append_eq_shiftLeft_setWidth_or]
  simp only [BitVec.shiftLeft_or_distrib, ← BitVec.shiftLeft_add]

end

/-- Equal command words have equal fields: the receiver reads each back. -/
theorem composeFields_inj {row col blueQ redQ greenQ row' col' blueQ' redQ' greenQ' : BitVec 6} :
    composeFields row col blueQ redQ greenQ = composeFields row' col' blueQ' redQ' greenQ' ↔
      row = row' ∧ col = col' ∧ blueQ = blueQ' ∧ redQ = redQ' ∧ greenQ = greenQ' := by
  constructor
  · intro h
    have hread := congrArg decodeWord h
    rw [decodeWord_composeFields, decodeWord_composeFields] at hread
    exact Instr.cw.inj (Except.ok.inj hread)
  · rintro ⟨rfl, rfl, rfl, rfl, rfl⟩
    rfl

/-! ### The word of a pixel -/

/-- A pixel whose channels quantize to the given three values. -/
def pixelOfQuanta (redQ greenQ blueQ : BitVec 6) : Pixel := ⟨redQ ++ 0#2, greenQ ++ 0#2, blueQ ++ 0#2⟩

/-- Any five fields are composed by the encode function from some operands. -/
theorem encodePixel_pixelOfQuanta (row col redQ greenQ blueQ : BitVec 6) :
    encodePixel row.toNat col.toNat (pixelOfQuanta redQ greenQ blueQ) = composeFields row col blueQ redQ greenQ := by
  simp only [encodePixel, pixelOfQuanta, low6_of_toNat, q6_append_zero]

end Sys2Proof.Machine

namespace Sys2Proof.Proofs
open Sys2Proof.Machine

/-- Settles O1: `0x3F` is `2^6 - 1`. -/
theorem coordinateMaskIsModSixtyFour : Obligations.CoordinateMaskIsModSixtyFour := by
  intro v
  have hmask : v &&& 0x3F = v % 64 := Nat.and_two_pow_sub_one_eq_mod v 6
  exact ⟨(low6_toNat v).trans hmask.symm, hmask⟩

/-- Settles O4: the word is defined as the concatenation, and the five fields do not overlap. -/
theorem compositionFormsAgree : Obligations.CompositionFormsAgree := by
  intro row col p
  refine ⟨rfl, composeFields_eq_or _ _ _ _ _, ?_⟩
  rw [encodePixel, composeFields_toNat, low6_toNat, low6_toNat, q6_toNat, q6_toNat, q6_toNat]

/-- Settles O5: equal words have equal fields, and each field is the used bits of one operand. -/
theorem equalWordsIffEqualUsedBits : Obligations.EqualWordsIffEqualUsedBits := by
  intro row col row' col' p p'
  rw [encodePixel, encodePixel, composeFields_inj, low6_eq_iff, low6_eq_iff, q6_eq_iff, q6_eq_iff, q6_eq_iff]
  constructor
  · rintro ⟨hrow, hcol, hblue, hred, hgreen⟩
    exact ⟨hrow, hcol, hred, hgreen, hblue⟩
  · rintro ⟨hrow, hcol, hred, hgreen, hblue⟩
    exact ⟨hrow, hcol, hblue, hred, hgreen⟩

/-- Settles O6: a word with bits 31:30 clear is composed of its five fields, and those are the fields of operands. -/
theorem producedWordsAreThoseWithHighBitsClear : Obligations.ProducedWordsAreThoseWithHighBitsClear := by
  refine ⟨fun _ _ _ => composeFields_high _ _ _ _ _, fun w hhigh => ?_⟩
  refine ⟨(w.extractLsb' 24 6).toNat, (w.extractLsb' 18 6).toNat,
    pixelOfQuanta (w.extractLsb' 6 6) (w.extractLsb' 0 6) (w.extractLsb' 12 6), BitVec.isLt _, BitVec.isLt _, ?_⟩
  rw [encodePixel_pixelOfQuanta, composeFields_of_high_clear hhigh]

end Sys2Proof.Proofs
end

section
/-! The two pure operations, ENCODE (40 R74) and BUILD_ROW (41 R82): what ENCODE decodes from and answers, and that
neither of the two has to do with the framer (40 R80, 41 R97). -/

namespace Sys2Proof.Machine

/-! ### A response hides the one before -/

section
variable (o : OutcomePort) (word : Option Word) (payload : Option (List Byte))

/-- An accepted PUSH moves the framer alike whatever stands on the response ports. -/
theorem pushPixel_respond (answer : SinkResult) (p : Pixel) (s : State) :
    pushPixel answer p (s.respond o word payload) = (pushPixel answer p s).respond o word payload := by
  rcases pushPixel_cases answer p s with ⟨hopen, hpush⟩ | ⟨hlast, hpush⟩
  · rw [hpush]
    exact if_pos hopen
  · rw [hpush]
    exact if_neg (Nat.not_lt_of_le hlast)

/-- A PUSH writes all the response ports and reads none, so it answers the same after any response (41 R84). -/
theorem exec_push_respond (r g b : Byte) (s : State) :
    exec (.push r g b) (s.respond o word payload) = exec (.push r g b) s := by
  rcases Bool.eq_false_or_eq_true s.halted with hhalted | hrunning
  · rw [exec_push_of_halted hhalted, exec_push_of_halted (s := s.respond o word payload) hhalted]
    rfl
  · rw [exec_push_of_running hrunning, exec_push_of_running (s := s.respond o word payload) hrunning,
      pushPixel_respond]
    rfl

end

/-! ### The pure operations -/

/-- ENCODE and BUILD_ROW write response ports alone, with values that do not depend on the state (40 R80, 41 R97). -/
theorem exec_of_pure {i : Instr}
    (h : (∃ row col r g b, i = .encode row col r g b) ∨ ∃ row lanes, i = .buildRow row lanes) :
    ∃ word payload, ∀ s : State, exec i s = .next (s.respond .accepted word payload) := by
  rcases h with ⟨row, col, r, g, b, rfl⟩ | ⟨row, lanes, rfl⟩
  · exact ⟨some (encodePixel row col ⟨r, g, b⟩), none, fun _ => rfl⟩
  · exact ⟨none, some (rowPayload row (lanes.map lanePixel)), fun _ => rfl⟩

/-- A descriptor `0b000` decodes to ENCODE of its ports when they can carry the coordinates (30 R59). -/
theorem decode_op_encode {cfg : Config} {o : Offer} (h : o.hod = 0b000#3) (hrow : o.rowIn < 2 ^ cfg.coordWidth)
    (hcol : o.colIn < 2 ^ cfg.coordWidth) :
    decode cfg (.op o) = .ok (.encode o.rowIn o.colIn o.rIn o.gIn o.bIn) := by
  rw [← decodeOffer_of_encode h]
  apply decode_op_of_wellFormed
  rw [decodeOffer_of_encode h]
  exact wellFormed_encode_iff.mpr ⟨hrow, hcol⟩

end Sys2Proof.Machine

namespace Sys2Proof.Proofs
open Sys2Proof.Machine

/-- Settles O46: each of the two operations only writes the response ports, and a PUSH reads none of them. -/
theorem pureOperationsAreIndependentOfTheFramer : Obligations.PureOperationsAreIndependentOfTheFramer := by
  intro i s hpure
  obtain ⟨word, payload, hexec⟩ := exec_of_pure hpure
  exact ⟨_, hexec s, rfl, rfl, fun _ _ _ _ => hexec _, fun r g b => by rw [exec_push_respond]⟩

/-- Settles O11: the operation map and the ports' widths give the decoding, the response ports are all that is
written, and the corner cases are those of masking and of quantization. -/
theorem encodeOperation : Obligations.EncodeOperation := by
  refine ⟨fun o s h hrow hcol => ⟨decode_op_encode h hrow hcol, rfl⟩, fun row col p => ?_,
    fun v => ⟨fun hdark => ?_, fun hbright => ?_⟩, by decide, by decide, by decide, by decide⟩
  · have hsame := equalWordsIffEqualUsedBits row col (row % 64) (col % 64) p p
    exact hsame.mpr ⟨(Nat.mod_mod row 64).symm, (Nat.mod_mod col 64).symm, rfl, rfl, rfl⟩
  · apply BitVec.eq_of_toNat_eq
    rw [q6_toNat]
    exact Nat.div_eq_of_lt (Nat.lt_succ_of_le hdark)
  · have hv := v.isLt
    apply BitVec.eq_of_toNat_eq
    rw [q6_toNat]
    exact (by omega : v.toNat / 4 = 63)

end Sys2Proof.Proofs
end

section
/-! PUSH in its three cases (41 R84): stalled, leaving the row open, and completing it; the framer's position after it
(41 R90), and the block with `N = 1` (41 R95). -/

namespace Sys2Proof.Machine

/-! ### The three cases -/

theorem exec_pushOf_of_halted {s : State} (h : s.halted = true) (p : Pixel) :
    exec (pushOf p) s = .next (s.respond .stalled none none) :=
  exec_push_of_halted h p.red p.green p.blue

theorem exec_pushOf_of_open {s : State} (h : s.halted = false) (hopen : s.colCnt.toNat < s.cfg.canvasSide - 1)
    (p : Pixel) :
    exec (pushOf p) s =
      .next ((s.appendWord (encodePixel s.rowCnt.toNat s.colCnt.toNat p)).respond .accepted none none) :=
  exec_push_of_open h hopen p.red p.green p.blue

theorem exec_pushOf_of_last {s : State} (h : s.halted = false) (hlast : s.cfg.canvasSide - 1 ≤ s.colCnt.toNat)
    (p : Pixel) :
    exec (pushOf p) s = .next ((completeRow (Config.sinkAnswer s.draws)
      (encodePixel s.rowCnt.toNat s.colCnt.toNat p) s).respond .accepted none none) := by
  rw [pushOf, exec_push_of_running h, pushPixel, if_neg (Nat.not_lt_of_le hlast)]

/-- All that a PUSH can do: it is stalled, extends the row, or completes it. -/
theorem exec_pushOf_cases (p : Pixel) (s : State) :
    (s.halted = true ∧ exec (pushOf p) s = .next (s.respond .stalled none none)) ∨
    (s.halted = false ∧ s.colCnt.toNat < s.cfg.canvasSide - 1 ∧ exec (pushOf p) s =
      .next ((s.appendWord (encodePixel s.rowCnt.toNat s.colCnt.toNat p)).respond .accepted none none)) ∨
    (s.halted = false ∧ s.cfg.canvasSide - 1 ≤ s.colCnt.toNat ∧ exec (pushOf p) s =
      .next ((completeRow (Config.sinkAnswer s.draws)
        (encodePixel s.rowCnt.toNat s.colCnt.toNat p) s).respond .accepted none none)) := by
  rcases Bool.eq_false_or_eq_true s.halted with hhalted | hrunning
  · exact .inl ⟨hhalted, exec_pushOf_of_halted hhalted p⟩
  · rcases Nat.lt_or_ge s.colCnt.toNat (s.cfg.canvasSide - 1) with hopen | hlast
    · exact .inr (.inl ⟨hrunning, hopen, exec_pushOf_of_open hrunning hopen p⟩)
    · exact .inr (.inr ⟨hrunning, hlast, exec_pushOf_of_last hrunning hlast p⟩)

/-! ### The counters -/

/-- While a column is left after it, the six bits of `col_cnt` hold the next column. -/
theorem appendWord_colCnt_toNat {s : State} (hside : s.cfg.canvasSide ≤ 64)
    (hopen : s.colCnt.toNat < s.cfg.canvasSide - 1) (w : Word) :
    (s.appendWord w).colCnt.toNat = s.colCnt.toNat + 1 := by
  rw [State.appendWord_colCnt]
  bv_omega

/-- The six bits of `row_cnt` hold the next row, which is below `N ≤ 64`. -/
theorem completeRow_rowCnt_toNat {s : State} (hpos : 0 < s.cfg.canvasSide) (hside : s.cfg.canvasSide ≤ 64)
    (answer : SinkResult) (w : Word) :
    (completeRow answer w s).rowCnt.toNat = (s.rowCnt.toNat + 1) % s.cfg.canvasSide := by
  have hmod := Nat.mod_lt (s.rowCnt.toNat + 1) hpos
  have hrow : (completeRow answer w s).rowCnt =
      BitVec.ofNat 6 ((s.rowCnt.toNat + 1) % s.cfg.canvasSide) := rfl
  rw [hrow, BitVec.toNat_ofNat, Nat.mod_eq_of_lt (by omega)]

/-- A running framer that completes a row halts exactly by TransmitError (60 R103). -/
theorem completeRow_halted_of_running {s : State} (h : s.halted = false) (answer : SinkResult) (w : Word) :
    (completeRow answer w s).halted = decide (s.cfg.txErrPolicy = some .stop ∧ answer = .err) := by
  rw [completeRow_halted, h]
  simp

/-! ### The descriptor -/

/-- A descriptor `0b010` decodes to PUSH of its channel ports, which carry every value (30 R59). -/
theorem decode_op_push (cfg : Config) {o : Offer} (h : o.hod = 0b010#3) :
    decode cfg (.op o) = .ok (.push o.rIn o.gIn o.bIn) := by
  rw [← decodeOffer_of_push h]
  apply decode_op_of_wellFormed
  rw [decodeOffer_of_push h]
  rfl

end Sys2Proof.Machine

namespace Sys2Proof.Proofs
open Sys2Proof.Machine

/-- Settles O13: the descriptor decodes to PUSH, and each of its three cases writes what 41 R84 names; of the
completing one, `halted` is the only field whose value depends on the answer. -/
theorem pushOperation : Obligations.PushOperation := by
  intro o s hhod _
  refine ⟨decode_op_push s.cfg hhod, ?_⟩
  rcases exec_pushOf_cases ⟨o.rIn, o.gIn, o.bIn⟩ s with
    ⟨hhalted, hpush⟩ | ⟨hrunning, hopen, hpush⟩ | ⟨hrunning, hlast, hpush⟩
  · rw [if_pos hhalted]
    exact hpush
  · rw [if_neg (by simp [hrunning]), if_pos hopen]
    exact hpush
  · rw [if_neg (by simp [hrunning]), if_neg (Nat.not_lt_of_le hlast), ← completeRow_halted_of_running hrunning]
    exact hpush

/-- Settles O42, by the three cases of PUSH. -/
theorem pushAdvancesThePosition : Obligations.PushAdvancesThePosition := by
  intro p s hcfg hrow hcol
  have hside := side_le_of_configLegal hcfg
  rcases exec_pushOf_cases p s with ⟨hhalted, hpush⟩ | ⟨hrunning, hopen, hpush⟩ | ⟨hrunning, hlast, hpush⟩
  · exact ⟨_, hpush, fun _ => ⟨rfl, rfl⟩, by simp [hhalted], by simp [hhalted], hrow, hcol⟩
  · have hnext := appendWord_colCnt_toNat hside hopen (encodePixel s.rowCnt.toNat s.colCnt.toNat p)
    refine ⟨_, hpush, by simp [hrunning], fun _ _ => ⟨hnext, rfl⟩, by omega, hrow, ?_⟩
    rw [State.respond_colCnt, hnext]
    omega
  · have hpos : 0 < s.cfg.canvasSide := Nat.zero_lt_of_lt hrow
    have hnext := completeRow_rowCnt_toNat hpos hside (Config.sinkAnswer s.draws)
      (encodePixel s.rowCnt.toNat s.colCnt.toNat p)
    refine ⟨_, hpush, by simp [hrunning], by omega, fun _ _ => ⟨rfl, hnext⟩, ?_, hpos⟩
    rw [State.respond_rowCnt, hnext]
    exact Nat.mod_lt _ hpos

/-- Settles O43: with one column and one row the position is always (0, 0), the last of both. -/
theorem canvasSideOnePush : Obligations.CanvasSideOnePush := by
  intro p s hinv hone hrunning
  have hrow : s.rowCnt.toNat = 0 := Nat.lt_one_iff.mp (hone ▸ hinv.row)
  have hcol : s.colCnt.toNat = 0 := Nat.lt_one_iff.mp (hone ▸ hinv.col)
  have hbuf : s.buf = [] := List.length_eq_zero_iff.mp (hinv.bufLength.trans hcol)
  have hpush := exec_pushOf_of_last hrunning (by omega) p
  have hpayload : serializeWords (s.buf ++ [encodePixel s.rowCnt.toNat s.colCnt.toNat p]) =
      be32 (encodePixel 0 0 p) := by
    rw [hbuf, hrow, hcol]
    exact List.append_nil _
  refine ⟨_, _, hpush, completeRow_sinkLog _ _ _, hpayload, ?_, BitVec.eq_of_toNat_eq hrow, ?_, ?_, rfl, rfl, rfl⟩
  · rw [hpayload, be32_length]
  · simp [hrow, hone]
  · apply BitVec.eq_of_toNat_eq
    rw [State.respond_rowCnt, completeRow_rowCnt_toNat (by omega) (by omega), hone, Nat.mod_one]
    rfl

end Sys2Proof.Proofs
end

section
/-! BUILD_ROW (41 R82): what it decodes from, and that a row payload depends on the low six bits of the row. -/

namespace Sys2Proof.Machine

/-- A descriptor `0b001` decodes to BUILD_ROW of its ports when they carry the row and `N` lanes (30 R59). -/
theorem decode_op_buildRow {cfg : Config} {o : Offer} (h : o.hod = 0b001#3) (hrow : o.rowIn < 2 ^ cfg.coordWidth)
    (hlanes : o.pixIn.length = cfg.canvasSide) : decode cfg (.op o) = .ok (.buildRow o.rowIn o.pixIn) := by
  rw [← decodeOffer_of_buildRow h]
  apply decode_op_of_wellFormed
  rw [decodeOffer_of_buildRow h]
  exact wellFormed_buildRow_iff.mpr ⟨hrow, hlanes⟩

theorem encodePixel_row_mod (row col : Nat) (p : Pixel) : encodePixel (row % 64) col p = encodePixel row col p := by
  rw [encodePixel, low6_eq_iff.mpr (Nat.mod_mod row 64), encodePixel]

theorem rowWords_row_mod (row col : Nat) (px : List Pixel) : rowWords (row % 64) col px = rowWords row col px := by
  induction px generalizing col with
  | nil => rfl
  | cons p ps ih => rw [rowWords, rowWords, encodePixel_row_mod, ih]

end Sys2Proof.Machine

namespace Sys2Proof.Proofs
open Sys2Proof.Machine

/-- Settles O12: the map and the ports' widths give the decoding, the payload port is all that is answered, and each
of the `N` lanes gives four bytes. -/
theorem buildRowOperation : Obligations.BuildRowOperation := by
  refine ⟨fun o s h hrow hlanes => ⟨decode_op_buildRow h hrow hlanes, rfl, ?_⟩, fun row px => ?_, by decide⟩
  · rw [rowPayload_length, List.length_map, hlanes]
  · rw [rowPayload, rowPayload, rowWords_row_mod]

end Sys2Proof.Proofs
end

section
/-! What becomes of the record of emissions (41 R89, R92). -/

namespace Sys2Proof.Machine

/-- Every instruction extends the record of emissions on the right, if at all. -/
theorem exec_sinkLog_prefix {i : Instr} {s t : State} (hexec : exec i s = .next t) : s.sinkLog <+: t.sinkLog := by
  cases i with
  | push r g b =>
    rcases exec_pushOf_cases ⟨r, g, b⟩ s with ⟨_, hpush⟩ | ⟨_, _, hpush⟩ | ⟨_, _, hpush⟩
    all_goals obtain rfl := Host.Outcome.next.inj (hpush.symm.trans hexec)
    · exact List.prefix_rfl
    · exact List.prefix_rfl
    · exact List.prefix_append s.sinkLog _
  | _ => rw [exec_keeps_sinkLog hexec fun _ _ _ => nofun]

theorem step_sinkLog_prefix {s t : State} (hstep : step s = .next t) : s.sinkLog <+: t.sinkLog := by
  obtain ⟨_, ⟨_, rfl⟩ | ⟨x, _, i, u, _, _, hexec, rfl⟩⟩ := step_next_cases hstep
  · exact List.prefix_rfl
  · rw [State.retire_sinkLog]
    exact exec_sinkLog_prefix hexec

/-- A run of one or more steps that answers a next state begins with a step that does. The converse of
`run_succ`. -/
theorem run_succ_next_cases (M : Host.Core) {k : Nat} {s t : M.State} (h : M.run (k + 1) s = .next t) :
    ∃ u, M.step s = .next u ∧ M.run k u = .next t := by
  rw [Host.Core.run] at h
  split at h
  next u hstep => exact ⟨u, hstep, h⟩
  all_goals contradiction

end Sys2Proof.Machine

namespace Sys2Proof.Proofs
open Sys2Proof.Machine

/-- Settles O37, by induction on the number of steps. -/
theorem emissionsAreNeverChanged : Obligations.EmissionsAreNeverChanged := by
  intro k
  induction k with
  | zero =>
    intro s t hrun
    obtain rfl := Host.Outcome.next.inj hrun
    exact List.prefix_rfl
  | succ k ih =>
    intro s t hrun
    obtain ⟨u, hstep, hrest⟩ := run_succ_next_cases Sys2Proof.core hrun
    exact (step_sinkLog_prefix hstep).trans (ih u t hrest)

/-- Settles O36: an emitting step is a PUSH of the last column, and by the invariant the buffered words are those of
the `N - 1` pixels before its own. -/
theorem everyEmissionIsACompleteRow : Obligations.EveryEmissionIsACompleteRow := by
  intro s t hinv hstep
  obtain ⟨_, ⟨_, rfl⟩ | ⟨x, _, i, u, _, _, hexec, rfl⟩⟩ := step_next_cases hstep
  · exact .inl rfl
  rcases onlyCompletingPushEmits i s u hinv.col hexec with
    ⟨hsilent, _⟩ | ⟨p, _, _, hlast, e, hemit, hrow, _, hpayload⟩
  · exact .inl hsilent
  · right
    obtain ⟨px, hlen, hbuf⟩ := hinv.pixels
    have hpos := hinv.side_pos
    have hfull : (px ++ [p]).length = s.cfg.canvasSide := by
      rw [List.length_append, List.length_singleton]
      omega
    have hwhole : e.payload = rowPayload s.rowCnt.toNat (px ++ [p]) := by
      rw [hpayload, rowPayload, rowWords_concat, hbuf, hlen, Nat.zero_add]
    refine ⟨e, px ++ [p], hemit, hrow, hfull, hwhole, ?_, ?_⟩
    · rw [hwhole, rowPayload_length, hfull]
    · rw [List.take_left' hlen, hbuf]

end Sys2Proof.Proofs
end

section
/-! Operations one after another (20 R46): a halted framer stays as it is until RESET (41 R96, 60 R110), a row broken
off leaves no trace (41 R92, 70 R116), and a stream of PUSHes is framed in raster order (41 R87, R91, R93, R94). -/

namespace Sys2Proof.Machine

/-! ### Sequences -/

theorem execAll_cons_of_next {i : Instr} {is : List Instr} {s t : State} (h : exec i s = .next t) :
    execAll (i :: is) s = execAll is t := by
  rw [execAll, h]

theorem execAll_append_of_next {is js : List Instr} {s t : State} (h : execAll is s = .next t) :
    execAll (is ++ js) s = execAll js t := by
  induction is generalizing s with
  | nil =>
    obtain rfl := Host.Outcome.next.inj h
    rfl
  | cons i is ih =>
    obtain ⟨u, hu⟩ := exec_answers_next i s
    rw [execAll_cons_of_next hu] at h
    rw [List.cons_append, execAll_cons_of_next hu, ih h]

theorem execAll_concat_of_next {is : List Instr} {i : Instr} {s t u : State} (his : execAll is s = .next t)
    (hi : exec i t = .next u) : execAll (is ++ [i]) s = .next u := by
  rw [execAll_append_of_next his, execAll_cons_of_next hi, execAll]

/-- What each instruction of a sequence keeps, the sequence keeps. -/
theorem execAll_keeps {P : State → Prop} {is : List Instr} {s : State}
    (hkeep : ∀ i ∈ is, ∀ s t, P s → exec i s = .next t → P t) (hs : P s) : ∃ t, execAll is s = .next t ∧ P t := by
  induction is generalizing s with
  | nil => exact ⟨s, rfl, hs⟩
  | cons i is ih =>
    obtain ⟨hi, his⟩ := List.forall_mem_cons.mp hkeep
    obtain ⟨u, hu⟩ := exec_answers_next i s
    rw [execAll_cons_of_next hu]
    exact ih his (hi s u hs hu)

/-! ### The halted framer -/

/-- `t` is halted with the framer and the record of emissions of `s`. -/
structure HaltedAs (s t : State) : Prop where
  halted : t.halted = true
  rowCnt : t.rowCnt = s.rowCnt
  colCnt : t.colCnt = s.colCnt
  buf : t.buf = s.buf
  sinkLog : t.sinkLog = s.sinkLog

/-- Every instruction but RESET keeps a halted framer as it is: a PUSH is stalled, the others do not write it. -/
theorem exec_keeps_haltedAs {i : Instr} {s t u : State} (hreset : ∀ op, i ≠ .reset op) (h : HaltedAs s t)
    (hexec : exec i t = .next u) : HaltedAs s u := by
  cases i with
  | reset op => exact absurd rfl (hreset op)
  | push r g b =>
    obtain rfl := Host.Outcome.next.inj ((exec_push_of_halted h.halted r g b).symm.trans hexec)
    exact { h with }
  | _ =>
    obtain rfl := Host.Outcome.next.inj hexec
    exact { h with }

/-! ### A row broken off -/

/-- A PUSH before the last column, stalled or not, writes nothing that a RESET leaves, and moves at most one column. -/
theorem exec_pushOf_before_last {s : State} (hbefore : s.colCnt.toNat < s.cfg.canvasSide - 1) (p : Pixel) :
    ∃ t, exec (pushOf p) s = .next t ∧ t.cfg = s.cfg ∧ t.colCnt.toNat ≤ s.colCnt.toNat + 1 ∧
      ∀ op, exec (.reset op) t = exec (.reset op) s := by
  rcases exec_pushOf_cases p s with ⟨_, hpush⟩ | ⟨_, _, hpush⟩ | ⟨_, hlast, _⟩
  · exact ⟨_, hpush, rfl, Nat.le_succ _, fun _ => rfl⟩
  · refine ⟨_, hpush, rfl, ?_, fun _ => rfl⟩
    rw [State.respond_colCnt, State.appendWord_colCnt, BitVec.toNat_add]
    exact Nat.mod_le _ _
  · omega

/-- PUSHes that do not reach the last column leave no trace past a RESET. -/
theorem reset_after_partial_row {px : List Pixel} {s : State}
    (hshort : s.colCnt.toNat + px.length < s.cfg.canvasSide) :
    ∃ t, execAll (px.map pushOf) s = .next t ∧ ∀ op, exec (.reset op) t = exec (.reset op) s := by
  induction px generalizing s with
  | nil => exact ⟨s, rfl, fun _ => rfl⟩
  | cons p ps ih =>
    rw [List.length_cons] at hshort
    obtain ⟨u, hu, hcfg, hcol, hresetHead⟩ := exec_pushOf_before_last (s := s) (by omega) p
    obtain ⟨t, ht, hresetTail⟩ := ih (s := u) (by rw [hcfg]; omega)
    rw [List.map_cons, execAll_cons_of_next hu]
    exact ⟨t, ht, fun op => (hresetTail op).trans (hresetHead op)⟩

/-! ### A stream of pixels -/

/-- The emission of the `j`-th whole row of a stream of pixels, in frames of `n` rows of `n` pixels. -/
structure Emission.IsStreamRow (n : Nat) (px : List Pixel) (j : Nat) (e : Emission) : Prop where
  row : e.row.toNat = j % n
  last : e.last = true ↔ j % n = n - 1
  payload : e.payload = rowPayload (j % n) ((px.drop (j * n)).take n)

/-- The row lies wholly before whatever pixels come later. -/
theorem Emission.IsStreamRow.append {n j : Nat} {px : List Pixel} {e : Emission} (h : e.IsStreamRow n px j)
    (hwhole : (j + 1) * n ≤ px.length) (later : List Pixel) : e.IsStreamRow n (px ++ later) j := by
  rw [Nat.succ_mul] at hwhole
  have hrow : ((px ++ later).drop (j * n)).take n = (px.drop (j * n)).take n := by
    rw [List.drop_append_of_le_length (by omega), List.take_append_of_le_length (by rw [List.length_drop]; omega)]
  exact { h with payload := by rw [hrow, h.payload] }

/-- The `j`-th of these emissions is that of the stream's `j`-th whole row, for every `j`. -/
def StreamRows (n : Nat) (px : List Pixel) (es : List Emission) : Prop :=
  ∀ (j : Nat) (e : Emission), es[j]? = some e → e.IsStreamRow n px j

/-- Emissions of rows that the stream has completed are rows of every longer stream. -/
theorem StreamRows.append {n : Nat} {px : List Pixel} {es : List Emission} (h : StreamRows n px es)
    (hwhole : es.length * n ≤ px.length) (later : List Pixel) : StreamRows n (px ++ later) es := by
  intro j e he
  obtain ⟨hj, _⟩ := List.getElem?_eq_some_iff.mp he
  exact (h j e he).append ((Nat.mul_le_mul_right n hj).trans hwhole) later

theorem StreamRows.concat {n : Nat} {px : List Pixel} {es : List Emission} {e : Emission} (h : StreamRows n px es)
    (he : e.IsStreamRow n px es.length) : StreamRows n px (es ++ [e]) := by
  intro j e' he'
  rcases Nat.lt_trichotomy j es.length with hold | rfl | hbeyond
  · rw [List.getElem?_append_left hold] at he'
    exact h j e' he'
  · rw [List.getElem?_concat_length] at he'
    exact Option.some.inj he' ▸ he
  · rw [List.getElem?_eq_none (by rw [List.length_append]; exact hbeyond)] at he'
    contradiction

/-- The framer has taken the stream `px` of pixels since the record of emissions was `log`: it has emitted its `rows`
whole rows and holds the pixels after them as its partial row. -/
structure State.Framed (n : Nat) (log : List Emission) (px : List Pixel) (rows : Nat) (t : State) : Prop where
  side : t.cfg.canvasSide = n
  col : t.colCnt.toNat < n
  taken : px.length = rows * n + t.colCnt.toNat
  row : t.rowCnt.toNat = rows % n
  buf : t.buf = rowWords t.rowCnt.toNat 0 (px.drop (rows * n))
  emitted : ∃ es : List Emission, t.sinkLog = log ++ es ∧ es.length = rows ∧ StreamRows n px es

section
variable {n rows : Nat} {log : List Emission} {px : List Pixel} {t : State}

theorem framed_after_reset (hside : t.cfg.canvasSide = n) (hpos : 0 < n) :
    (t.clearFramer.respond .accepted none none).Framed n t.sinkLog [] 0 where
  side := hside
  col := hpos
  taken := (Nat.zero_mul n).symm
  row := (Nat.zero_mod n).symm
  buf := by rw [List.drop_nil]; rfl
  emitted := ⟨[], (List.append_nil _).symm, rfl, nofun⟩

theorem State.Framed.respond (h : t.Framed n log px rows) (o : OutcomePort) (word : Option Word)
    (payload : Option (List Byte)) : (t.respond o word payload).Framed n log px rows := { h with }

/-- The partial row of the stream with one more pixel is the partial row and that pixel. -/
theorem State.Framed.partial_concat (h : t.Framed n log px rows) (p : Pixel) :
    (px ++ [p]).drop (rows * n) = px.drop (rows * n) ++ [p] :=
  List.drop_append_of_le_length (by rw [h.taken]; exact Nat.le_add_right _ _)

/-- The next pixel is encoded at its place in the stream: the column is the number of pixels held. -/
theorem State.Framed.buf_concat (h : t.Framed n log px rows) (p : Pixel) :
    t.buf ++ [encodePixel t.rowCnt.toNat t.colCnt.toNat p] =
      rowWords t.rowCnt.toNat 0 ((px ++ [p]).drop (rows * n)) := by
  have hheld : (px.drop (rows * n)).length = t.colCnt.toNat := by
    rw [List.length_drop, h.taken, Nat.add_sub_cancel_left]
  rw [h.partial_concat, rowWords_concat, hheld, Nat.zero_add, h.buf]

/-- The rows emitted so far are rows of the longer stream. -/
theorem State.Framed.emitted_append (h : t.Framed n log px rows) (later : List Pixel) :
    ∃ es : List Emission, t.sinkLog = log ++ es ∧ es.length = rows ∧ StreamRows n (px ++ later) es := by
  obtain ⟨es, hlog, hlen, hrows⟩ := h.emitted
  refine ⟨es, hlog, hlen, hrows.append ?_ later⟩
  rw [hlen, h.taken]
  exact Nat.le_add_right _ _

/-- A PUSH before the last column adds its pixel to the partial row. -/
theorem State.Framed.push_open (h : t.Framed n log px rows) (hside : n ≤ 64) (hopen : t.colCnt.toNat < n - 1)
    (p : Pixel) :
    (t.appendWord (encodePixel t.rowCnt.toNat t.colCnt.toNat p)).Framed n log (px ++ [p]) rows := by
  obtain rfl := h.side
  have hcol := appendWord_colCnt_toNat hside hopen (encodePixel t.rowCnt.toNat t.colCnt.toNat p)
  exact {
    side := rfl
    col := by rw [hcol]; omega
    taken := by rw [hcol, List.length_append, List.length_singleton, h.taken, Nat.add_assoc]
    row := h.row
    buf := h.buf_concat p
    emitted := h.emitted_append [p] }

/-- The words held and the next pixel's are what the longer stream has of its next row. -/
theorem State.Framed.emission_isStreamRow (h : t.Framed n log px rows) (answer : SinkResult) (p : Pixel) :
    Emission.IsStreamRow n (px ++ [p]) rows
      ⟨serializeWords (t.buf ++ [encodePixel t.rowCnt.toNat t.colCnt.toNat p]), t.rowCnt,
        decide (t.rowCnt.toNat = t.cfg.canvasSide - 1), answer⟩ where
  row := h.row
  last := by rw [decide_eq_true_iff, h.row, h.side]
  payload := by
    have hfull : ((px ++ [p]).drop (rows * n)).length ≤ n := by
      have hcol := h.col
      rw [List.length_drop, List.length_append, List.length_singleton, h.taken]
      omega
    rw [h.buf_concat, List.take_of_length_le hfull, h.row, rowPayload]

/-- A PUSH at the last column emits the next row of the stream and holds nothing. -/
theorem State.Framed.push_last (h : t.Framed n log px rows) (hside : n ≤ 64) (hlast : n - 1 ≤ t.colCnt.toNat)
    (answer : SinkResult) (p : Pixel) :
    (completeRow answer (encodePixel t.rowCnt.toNat t.colCnt.toNat p) t).Framed n log (px ++ [p])
      (rows + 1) := by
  have hcol := h.col
  have htaken : (px ++ [p]).length = (rows + 1) * n := by
    rw [List.length_append, List.length_singleton, h.taken, Nat.succ_mul]
    omega
  have hnew := h.emission_isStreamRow answer p
  obtain ⟨es, hlog, hlen, hrows⟩ := h.emitted_append [p]
  exact {
    side := h.side
    col := Nat.zero_lt_of_lt hcol
    taken := htaken
    row := by
      obtain rfl := h.side
      rw [completeRow_rowCnt_toNat (Nat.zero_lt_of_lt hcol) hside, h.row, Nat.mod_add_mod]
    buf := by
      rw [List.drop_eq_nil_of_le (by rw [htaken])]
      rfl
    emitted := by
      refine ⟨es ++ [_], ?_, by rw [List.length_append, hlen, List.length_singleton], hrows.concat (hlen ▸ hnew)⟩
      rw [completeRow_sinkLog, hlog, List.append_assoc] }

/-- A PUSH of a running framer takes the next pixel of the stream. -/
theorem State.Framed.push (h : t.Framed n log px rows) (hside : n ≤ 64) (hrunning : t.halted = false)
    {p : Pixel} {u : State} (hexec : exec (pushOf p) t = .next u) : ∃ rows', u.Framed n log (px ++ [p]) rows' := by
  rcases exec_pushOf_cases p t with ⟨hhalted, _⟩ | ⟨_, hopen, hpush⟩ | ⟨_, hlast, hpush⟩
  · simp [hrunning] at hhalted
  · obtain rfl := Host.Outcome.next.inj (hpush.symm.trans hexec)
    rw [h.side] at hopen
    exact ⟨rows, (h.push_open hside hopen p).respond _ _ _⟩
  · obtain rfl := Host.Outcome.next.inj (hpush.symm.trans hexec)
    rw [h.side] at hlast
    exact ⟨rows + 1, (h.push_last hside hlast _ p).respond _ _ _⟩

/-- The number of whole rows and the column are quotient and remainder of the number of pixels taken. -/
theorem State.Framed.rows_eq (h : t.Framed n log px rows) :
    rows = px.length / n ∧ t.colCnt.toNat = px.length % n := by
  have htaken : t.colCnt.toNat + n * rows = px.length := by rw [h.taken, Nat.add_comm, Nat.mul_comm]
  obtain ⟨hdiv, hmod⟩ := (Nat.div_mod_unique (Nat.zero_lt_of_lt h.col)).mpr ⟨htaken, h.col⟩
  exact ⟨hdiv.symm, hmod.symm⟩

end

/-- PUSHes after which the framer still runs were all accepted, and it has taken their pixels as one stream. -/
theorem execAll_pushes_framed {n : Nat} {log : List Emission} {s : State} (hside : n ≤ 64) (h : s.Framed n log [] 0)
    (px : List Pixel) :
    ∃ t, execAll (px.map pushOf) s = .next t ∧ (t.halted = false → ∃ rows, t.Framed n log px rows) := by
  induction px using List.reverseRecOn with
  | nil => exact ⟨s, rfl, fun _ => ⟨0, h⟩⟩
  | append_singleton px p ih =>
    obtain ⟨t, ht, hframed⟩ := ih
    obtain ⟨u, hu⟩ := exec_answers_next (pushOf p) t
    refine ⟨u, ?_, fun hrunning => ?_⟩
    · rw [List.map_append, List.map_singleton]
      exact execAll_concat_of_next ht hu
    · have hbefore : t.halted = false := by
        by_contra hhalted
        rw [exec_pushOf_of_halted (Bool.eq_true_of_not_eq_false hhalted)] at hu
        obtain rfl := Host.Outcome.next.inj hu
        exact hhalted hrunning
      obtain ⟨rows, hrows⟩ := hframed hbefore
      exact hrows.push hside hbefore hu

end Sys2Proof.Machine

namespace Sys2Proof.Proofs
open Sys2Proof.Machine

/-- Settles O40: each instruction but RESET keeps the halted framer (`HaltedAs`), so a sequence of them does. -/
theorem haltedFramerIsFrozenUntilReset : Obligations.HaltedFramerIsFrozenUntilReset := by
  intro is s hhalted hnoReset
  obtain ⟨t, ht, hkept⟩ := execAll_keeps (P := HaltedAs s)
    (fun i hi _ _ hs hexec => exec_keeps_haltedAs (hnoReset i hi) hs hexec) ⟨hhalted, rfl, rfl, rfl, rfl⟩
  exact ⟨t, ht, hkept.halted, hkept.rowCnt, hkept.colCnt, hkept.buf, hkept.sinkLog,
    exec_push_of_halted hkept.halted, fun _ => ⟨_, rfl, rfl⟩⟩

/-- Settles O45: what a RESET leaves is the same before and after each PUSH that does not reach the last column. -/
theorem brokenOffRowIsNeverEmitted : Obligations.BrokenOffRowIsNeverEmitted := by
  intro op px s _ hshort
  obtain ⟨t, ht, hreset⟩ := reset_after_partial_row hshort
  exact ⟨_, execAll_concat_of_next ht (hreset op), rfl, rfl, rfl, rfl, rfl, rfl⟩

/-- Settles O44: RESET starts an empty stream, each accepted PUSH takes one pixel more (`State.Framed`), and the
position is quotient and remainder of their number. -/
theorem pushStreamIsFramedInRasterOrder : Obligations.PushStreamIsFramedInRasterOrder := by
  intro op px s hcfg
  have hpos : 0 < s.cfg.canvasSide := by
    simp only [configLegal, Bool.and_eq_true, decide_eq_true_eq] at hcfg
    omega
  obtain ⟨t, ht, hframed⟩ := execAll_pushes_framed (side_le_of_configLegal hcfg) (framed_after_reset rfl hpos) px
  refine ⟨t, ht, fun hrunning => ?_⟩
  obtain ⟨rows, h⟩ := hframed hrunning
  obtain ⟨hrows, hcol⟩ := h.rows_eq
  obtain ⟨es, hlog, hlen, hes⟩ := h.emitted
  refine ⟨hrows ▸ h.row, hcol, hrows ▸ h.buf, es, hlog, hlen.trans hrows, fun j e he => ?_⟩
  obtain ⟨hrow, hlast, hpayload⟩ := hes j e he
  exact ⟨hrow, hlast, hpayload⟩

end Sys2Proof.Proofs
end

section
/-! The two ways a step performs no operation: an illegal configuration refuses it (60 R100), and with nothing offered
the state is held (60 R113, 70 R125; log 5). -/

namespace Sys2Proof.Machine

/-- A policy is missing exactly when it is neither of the two legal ones (60 R100). -/
theorem policy_eq_none_iff {policy : Option TxErrPolicy} :
    policy = none ↔ policy ≠ some .ignore ∧ policy ≠ some .stop := by
  rcases policy with _ | _ | _ <;> simp

theorem configLegal_eq_false_iff {cfg : Config} : configLegal cfg = false ↔
    cfg.canvasSide < 1 ∨ 64 < cfg.canvasSide ∨ cfg.coordWidth < 6 ∨
      (cfg.txErrPolicy ≠ some .ignore ∧ cfg.txErrPolicy ≠ some .stop) := by
  rw [← policy_eq_none_iff]
  simp only [configLegal, Bool.and_eq_false_iff, decide_eq_false_iff_not, Nat.not_le, Option.isSome_eq_false_iff,
    Option.isNone_iff_eq_none, or_assoc]

theorem step_of_illegal {s : State} (hcfg : configLegal s.cfg = false) : step s = .refused .configRange := by
  simp [step, hcfg]

theorem step_of_idle {s : State} (hcfg : configLegal s.cfg = true) (hin : s.inputs = []) : step s = .next s := by
  simp [step, hcfg, hin]

/-- All that the step of a legal configuration can answer: a next state, or the decoder's refusal of its input. -/
theorem step_of_legal_cases {s : State} (hcfg : configLegal s.cfg = true) :
    (∃ t, step s = .next t) ∨ ∃ e, step s = .refused (.undecodable e) := by
  cases hin : s.inputs with
  | nil => exact .inl ⟨s, step_of_idle hcfg hin⟩
  | cons x rest =>
    cases hdec : decode s.cfg x with
    | error e => exact .inr ⟨e, step_of_decode_error hcfg hin hdec⟩
    | ok i =>
      obtain ⟨t, hexec⟩ := exec_answers_next i s
      exact .inl ⟨_, step_of_decode hcfg hin hdec hexec⟩

theorem step_eq_configRange_iff {s : State} : step s = .refused .configRange ↔ configLegal s.cfg = false := by
  refine ⟨fun hstep => ?_, step_of_illegal⟩
  by_contra hcfg
  rcases step_of_legal_cases (Bool.eq_true_of_not_eq_false hcfg) with ⟨t, hnext⟩ | ⟨e, hundecodable⟩
  · nomatch hnext.symm.trans hstep
  · nomatch hundecodable.symm.trans hstep

end Sys2Proof.Machine

namespace Sys2Proof.Proofs
open Sys2Proof.Machine

/-- Settles O19: the configuration alone decides the refusal, since no decoder error and no instruction answers it. -/
theorem illegalConfigurationRefused : Obligations.IllegalConfigurationRefused :=
  ⟨rfl, fun _ => step_eq_configRange_iff.trans configLegal_eq_false_iff⟩

/-- Settles O29. -/
theorem idleStepHoldsTheState : Obligations.IdleStepHoldsTheState :=
  fun _ => step_of_idle

end Sys2Proof.Proofs
end

section
/-! The reserved descriptor (30 R60, 60 R101; log 7, 15) and the run-level mark that it alone sets (60 R99). -/

namespace Sys2Proof.Machine

/-- A descriptor `0b011` reads no port, so it decodes under every configuration (30 R60). -/
theorem decode_op_reserved (cfg : Config) {o : Offer} (h : o.hod = 0b011#3) : decode cfg (.op o) = .ok .reserved := by
  rw [← decodeOffer_of_reserved h]
  apply decode_op_of_wellFormed
  rw [decodeOffer_of_reserved h]
  rfl

/-- A PUSH carries the mark along: it neither writes nor reads it. -/
theorem exec_pushOf_mark (p : Pixel) (s : State) : ∃ t, exec (pushOf p) s = .next t ∧ t.refused = s.refused ∧
    ∀ mark, exec (pushOf p) { s with refused := mark } = .next { t with refused := mark } := by
  rcases exec_pushOf_cases p s with ⟨hhalted, hpush⟩ | ⟨hrunning, hopen, hpush⟩ | ⟨hrunning, hlast, hpush⟩
  · exact ⟨_, hpush, rfl, fun mark => exec_pushOf_of_halted (s := { s with refused := mark }) hhalted p⟩
  · exact ⟨_, hpush, rfl, fun mark => exec_pushOf_of_open (s := { s with refused := mark }) hrunning hopen p⟩
  · exact ⟨_, hpush, rfl, fun mark => exec_pushOf_of_last (s := { s with refused := mark }) hrunning hlast p⟩

/-- Every instruction but the reserved one carries the mark along. -/
theorem exec_mark {i : Instr} {s t : State} (hexec : exec i s = .next t) (hreserved : i ≠ .reserved) :
    t.refused = s.refused ∧ ∀ mark, exec i { s with refused := mark } = .next { t with refused := mark } := by
  cases i with
  | reserved => exact absurd rfl hreserved
  | push r g b =>
    obtain ⟨u, hpush, hmark⟩ := exec_pushOf_mark ⟨r, g, b⟩ s
    obtain rfl := Host.Outcome.next.inj (hpush.symm.trans hexec)
    exact hmark
  | _ =>
    obtain rfl := Host.Outcome.next.inj hexec
    exact ⟨rfl, fun _ => rfl⟩

/-- The mark after an instruction: the one before, or set by the refused operation. -/
theorem exec_refused_iff {i : Instr} {s t : State} (hexec : exec i s = .next t) :
    t.refused = true ↔ s.refused = true ∨ i = .reserved := by
  by_cases hreserved : i = .reserved
  · subst hreserved
    obtain rfl := Host.Outcome.next.inj hexec
    exact iff_of_true rfl (.inr rfl)
  · obtain ⟨hkept, _⟩ := exec_mark hexec hreserved
    rw [hkept, or_iff_left hreserved]

/-- What an instruction does to a state with another mark is the same but for the mark. -/
theorem exec_with_mark {i : Instr} {s t : State} (hexec : exec i s = .next t) (mark : Bool) :
    exec i { s with refused := mark } = .next { t with refused := mark || decide (i = .reserved) } := by
  by_cases hreserved : i = .reserved
  · subst hreserved
    obtain rfl := Host.Outcome.next.inj hexec
    rw [decide_eq_true rfl, Bool.or_true]
    rfl
  · obtain ⟨_, hcarried⟩ := exec_mark hexec hreserved
    rw [decide_eq_false hreserved, Bool.or_false]
    exact hcarried mark

end Sys2Proof.Machine

namespace Sys2Proof.Proofs
open Sys2Proof.Machine

/-- Settles O15: the operation map gives the decoding, and the response is that of a refused operation. -/
theorem reservedDescriptorRefused : Obligations.ReservedDescriptorRefused :=
  fun _ s h => ⟨decode_op_reserved s.cfg h, rfl, rfl⟩

/-- Settles O34: each instruction sets or carries the mark, and a step holds still or performs one instruction and
retires its input, which leaves the mark alone. -/
theorem refusedMarkIsSticky : Obligations.RefusedMarkIsSticky := by
  refine ⟨fun s t hstep hmark => ?_, fun _ _ _ => exec_refused_iff, fun _ _ _ mark hexec => exec_with_mark hexec mark⟩
  obtain ⟨_, ⟨_, rfl⟩ | ⟨x, _, i, u, _, _, hexec, rfl⟩⟩ := step_next_cases hstep
  · exact hmark
  · rw [State.retire_refused]
    exact (exec_refused_iff hexec).mpr (.inl hmark)

end Sys2Proof.Proofs
end

section
/-! The events of the framer as the host meets them: TransmitError at a completing PUSH (60 R103), the PUSH stalled
while halted (60 R105; log 6), and the one outcome of each offered operation (60 R98, R108). -/

namespace Sys2Proof.Machine

/-! ### TransmitError -/

theorem pushPixel_of_last {s : State} (hlast : s.cfg.canvasSide - 1 ≤ s.colCnt.toNat) (answer : SinkResult)
    (p : Pixel) :
    pushPixel answer p s = completeRow answer (encodePixel s.rowCnt.toNat s.colCnt.toNat p) s :=
  if_neg (Nat.not_lt_of_le hlast)

/-! ### The stalled PUSH -/

section
variable {s : State} {o : Offer} {rest : List Input}

/-- The step that meets a PUSH while halted writes the response ports, and then holds or drops the offer. -/
theorem step_of_stalled_push (hcfg : configLegal s.cfg = true) (hhalted : s.halted = true)
    (hin : s.inputs = .op o :: rest) (hhod : o.hod = 0b010#3) :
    step s = .next ((s.respond .stalled none none).retire (.op o)) :=
  step_of_decode hcfg hin (decode_op_push s.cfg hhod) (exec_push_of_halted hhalted _ _ _)

theorem step_of_held_push (hcfg : configLegal s.cfg = true) (hhalted : s.halted = true)
    (hin : s.inputs = .op o :: rest) (hhod : o.hod = 0b010#3) (hheld : o.dropOnStall = false) :
    step s = .next (s.respond .stalled none none) := by
  rw [step_of_stalled_push hcfg hhalted hin hhod, retire_of_staysOffered (staysOffered_iff.mpr ⟨o, rfl, rfl, hheld⟩)]

theorem step_of_withdrawn_push (hcfg : configLegal s.cfg = true) (hhalted : s.halted = true)
    (hin : s.inputs = .op o :: rest) (hhod : o.hod = 0b010#3) (hdrop : o.dropOnStall = true) :
    step s = .next { s.respond .stalled none none with inputs := rest } := by
  have hgoes : staysOffered (.op o) (s.respond .stalled none none) = false := by simp [staysOffered, hdrop]
  rw [step_of_stalled_push hcfg hhalted hin hhod, retire_of_not_staysOffered hgoes, State.respond_inputs, hin,
    List.tail_cons]

/-- The stalled response is written once; every later step writes it again over itself. -/
theorem run_of_held_push (hcfg : configLegal s.cfg = true) (hhalted : s.halted = true)
    (hin : s.inputs = .op o :: rest) (hhod : o.hod = 0b010#3) (hheld : o.dropOnStall = false) (k : Nat) :
    Host.Core.run Sys2Proof.core (k + 1) s = .next (s.respond .stalled none none) := by
  induction k generalizing s with
  | zero => exact core_run_succ (step_of_held_push hcfg hhalted hin hhod hheld)
  | succ k ih =>
    rw [core_run_succ (step_of_held_push hcfg hhalted hin hhod hheld)]
    exact ih (s := s.respond .stalled none none) hcfg hhalted hin

end

/-! ### The one outcome -/

/-- Every instruction emits at most one payload (41 R88). -/
theorem exec_sinkLog_length_le {i : Instr} {s t : State} (hexec : exec i s = .next t) :
    t.sinkLog.length ≤ s.sinkLog.length + 1 := by
  cases i with
  | push r g b =>
    rcases exec_pushOf_cases ⟨r, g, b⟩ s with ⟨_, hpush⟩ | ⟨_, _, hpush⟩ | ⟨_, _, hpush⟩
    all_goals obtain rfl := Host.Outcome.next.inj (hpush.symm.trans hexec)
    · exact Nat.le_succ _
    · exact Nat.le_succ _
    · rw [State.respond_sinkLog, completeRow_sinkLog, List.length_append, List.length_singleton]
  | _ =>
    rw [exec_keeps_sinkLog hexec fun _ _ _ => nofun]
    exact Nat.le_succ _

/-- What an offered operation answers: the reserved descriptor is refused, a PUSH is stalled while halted, and
anything else is accepted (60 R98). -/
theorem exec_decodeOffer_cases {o : Offer} {s t : State} (hexec : exec (decodeOffer o) s = .next t) :
    (o.hod = 0b011#3 ∧ t = s.refuse .reservedOp) ∨
    (o.hod = 0b010#3 ∧ s.halted = true ∧ t = s.respond .stalled none none) ∨
    (o.hod ≠ 0b011#3 ∧ ¬ (o.hod = 0b010#3 ∧ s.halted = true) ∧ t.outcome = .accepted) := by
  rcases hod_cases o.hod with h | h | h | h | h
  · rw [decodeOffer_of_rst h] at hexec
    obtain rfl := Host.Outcome.next.inj hexec
    have hreserved : o.hod ≠ 0b011#3 := fun heq => by simp [heq] at h
    have hpush : o.hod ≠ 0b010#3 := fun heq => by simp [heq] at h
    exact .inr (.inr ⟨hreserved, fun ⟨heq, _⟩ => hpush heq, rfl⟩)
  · rw [decodeOffer_of_encode h] at hexec
    obtain rfl := Host.Outcome.next.inj hexec
    exact .inr (.inr ⟨by simp [h], by simp [h], rfl⟩)
  · rw [decodeOffer_of_buildRow h] at hexec
    obtain rfl := Host.Outcome.next.inj hexec
    exact .inr (.inr ⟨by simp [h], by simp [h], rfl⟩)
  · rw [decodeOffer_of_push h] at hexec
    rcases execPush_cases o.rIn o.gIn o.bIn s with ⟨hhalted, hpush⟩ | ⟨hrunning, hpush⟩
    · exact .inr (.inl ⟨h, hhalted, Host.Outcome.next.inj (hexec.symm.trans hpush)⟩)
    · obtain rfl := Host.Outcome.next.inj (hpush.symm.trans hexec)
      exact .inr (.inr ⟨by simp [h], by simp [hrunning], rfl⟩)
  · rw [decodeOffer_of_reserved h] at hexec
    exact .inl ⟨h, (Host.Outcome.next.inj hexec).symm⟩

end Sys2Proof.Machine

namespace Sys2Proof.Proofs
open Sys2Proof.Machine

/-- Settles O39: the PUSH completes its row (`completeRow`), where `halted` and the recorded answer are all that
depends on the sink; STATUS shows `halted` and the advanced counters. -/
theorem transmitErrorPolicies : Obligations.TransmitErrorPolicies := by
  refine ⟨rfl, fun answer p s hcfg hrunning hrow hlast => ?_⟩
  rw [pushPixel_of_last (Nat.le_of_eq hlast.symm)]
  have hhalted := completeRow_halted_of_running hrunning answer (encodePixel s.rowCnt.toNat s.colCnt.toNat p)
  refine ⟨?_, rfl, rfl, completeRow_rowCnt_toNat (Nat.zero_lt_of_lt hrow) (side_le_of_configLegal hcfg) _ _,
    ⟨_, completeRow_sinkLog _ _ _, rfl, rfl, rfl, decide_eq_true_iff⟩, (statusWord_eq_iff _ _).mpr ⟨rfl, rfl, hhalted⟩⟩
  rw [hhalted, decide_eq_true_iff]

/-- Settles O41: the held PUSH by induction on the number of steps, the withdrawn one by its one step. -/
theorem stalledOfferMakesNoProgress : Obligations.StalledOfferMakesNoProgress :=
  fun _ _ _ hcfg hhalted hin hhod =>
    ⟨run_of_held_push hcfg hhalted hin hhod, step_of_withdrawn_push hcfg hhalted hin hhod⟩

/-- Settles O49: by the three answers of an offered operation, of which the order of priority names RESET as one of
the accepted ones. -/
theorem outcomeByPriority : Obligations.OutcomeByPriority := by
  intro o s t hexec
  refine ⟨?_, exec_sinkLog_length_le hexec, fun hunaccepted => ?_⟩
  · rcases exec_decodeOffer_cases hexec with ⟨hhod, rfl⟩ | ⟨hhod, hhalted, rfl⟩ | ⟨hreserved, hstalled, haccepted⟩
    · simp [hhod]
    · simp [hhod, hhalted]
    · rw [haccepted, if_neg hreserved, if_neg hstalled, ite_self]
  · rcases exec_decodeOffer_cases hexec with ⟨_, rfl⟩ | ⟨_, _, rfl⟩ | ⟨_, _, haccepted⟩
    · rfl
    · rfl
    · exact absurd haccepted hunaccepted

end Sys2Proof.Proofs
end

section
/-! The configuration is a parameter of the block (10 R27): the framer, every instruction and every step leave it
alone (70 R121; log 1). -/

namespace Sys2Proof.Machine

@[simp] theorem completeRow_cfg (answer : SinkResult) (w : Word) (s : State) :
    (completeRow answer w s).cfg = s.cfg := rfl

/-- The parameters belong to no operation: the meaning of an instruction does not change them. -/
theorem exec_keeps_cfg {i : Instr} {s t : State} (hexec : exec i s = .next t) : t.cfg = s.cfg := by
  cases i with
  | push r g b =>
    rcases exec_pushOf_cases ⟨r, g, b⟩ s with ⟨_, hpush⟩ | ⟨_, _, hpush⟩ | ⟨_, _, hpush⟩
    all_goals obtain rfl := Host.Outcome.next.inj (hpush.symm.trans hexec)
    · rw [State.respond_cfg]
    · rw [State.respond_cfg, State.appendWord_cfg]
    · rw [State.respond_cfg, completeRow_cfg]
  | _ =>
    obtain rfl := Host.Outcome.next.inj hexec
    rfl

end Sys2Proof.Machine

namespace Sys2Proof.Proofs
open Sys2Proof.Machine

/-- Settles O33: a step holds still, or performs one instruction and retires its input, neither of which touches the
parameters. -/
theorem configurationIsStatic : Obligations.ConfigurationIsStatic := by
  intro s t hstep
  obtain ⟨_, ⟨_, rfl⟩ | ⟨x, _, i, u, _, _, hexec, rfl⟩⟩ := step_next_cases hstep
  · rfl
  · rw [State.retire_cfg, exec_keeps_cfg hexec]

end Sys2Proof.Proofs
end

section
/-! RESET (70 R114, R115): the four descriptors it decodes from, and the zero that STATUS shows of a cleared framer
(10 R28, R32). -/

namespace Sys2Proof.Machine

/-- RESET names no port, so a descriptor with `RST = 1` decodes to it under every configuration (30 R58, R59). -/
theorem decode_op_reset (cfg : Config) {o : Offer} (h : o.hod.extractLsb' 2 1 = 1#1) :
    decode cfg (.op o) = .ok (.reset (o.hod.extractLsb' 0 2)) := by
  rw [← decodeOffer_of_rst h]
  apply decode_op_of_wellFormed
  rw [decodeOffer_of_rst h]
  rfl

theorem statusWord_eq_zero_iff (s : State) :
    statusWord s = 0 ↔ s.colCnt = 0 ∧ s.rowCnt = 0 ∧ s.halted = false := by
  have hreset : statusWord State.reset = 0 := by decide
  rw [← hreset]
  exact statusWord_eq_iff s State.reset

theorem exec_reset (op : BitVec 2) (s : State) :
    exec (.reset op) s = .next (s.clearFramer.respond .accepted none none) := rfl

end Sys2Proof.Machine

namespace Sys2Proof.Proofs
open Sys2Proof.Machine

/-- Settles O14: the operation map gives the decoding, RESET writes the framer and the response ports with the values
they hold after reset, and STATUS of a cleared framer is zero. -/
theorem resetOperation : Obligations.ResetOperation := by
  refine ⟨fun o s hrst => ⟨decode_op_reset s.cfg hrst, fun op => exec_reset op s⟩,
    fun op => exec_reset op State.reset, fun op s t hexec => ?_⟩
  obtain rfl := Host.Outcome.next.inj ((exec_reset op s).symm.trans hexec)
  exact (statusWord_eq_zero_iff _).mpr ⟨rfl, rfl, rfl⟩

end Sys2Proof.Proofs
end

section
/-! A command word outside the canvas (91, Receiver behaviour on a command word; log 12): one free draw decides what
its own location then holds. -/

namespace Sys2Proof.Machine

theorem onCanvas_eq_false_iff {cfg : Config} {row col : BitVec 6} :
    onCanvas cfg row col = false ↔ cfg.canvasSide ≤ row.toNat ∨ cfg.canvasSide ≤ col.toNat := by
  rw [← Bool.not_eq_true, onCanvas_iff, not_and_or, Nat.not_lt, Nat.not_lt]

/-- Outside the canvas the word itself is lost: its address is given the next free value. -/
theorem latchWord_of_not_onCanvas {s : State} {row col : BitVec 6} (h : onCanvas s.cfg row col = false) (w : Word) :
    s.latchWord row col w = { s with
      framebuffer := s.framebuffer.put (pixelAddress row col).toNat (Config.outsidePanel s.draws)
      draws := s.draws + 1 } := by
  simp [State.latchWord, h]

theorem read_latchWord_of_not_onCanvas {s : State} {row col : BitVec 6} (hmem : s.framebuffer.wf = true)
    (h : onCanvas s.cfg row col = false) (w : Word) :
    (s.latchWord row col w).framebuffer.read (pixelAddress row col).toNat = Config.outsidePanel s.draws := by
  rw [latchWord_of_not_onCanvas h]
  exact Memory.read_put_same hmem

end Sys2Proof.Machine

namespace Sys2Proof.Proofs
open Sys2Proof.Machine

/-- Settles O17: outside the canvas the latch makes one draw and puts the drawn value at the word's own address;
another position has another address. -/
theorem commandWordOutsideCanvas : Obligations.CommandWordOutsideCanvas := by
  intro row col blueQ redQ greenQ s hmem houtside
  have hcanvas : onCanvas s.cfg row col = false := onCanvas_eq_false_iff.mpr houtside
  refine ⟨_, rfl, ?_, read_latchWord_of_not_onCanvas hmem hcanvas _,
    fun r c hne => readPixel_latchWord_other s hne _⟩
  rw [latchWord_of_not_onCanvas hcanvas]

end Sys2Proof.Proofs
end
